-- ==== Sys2Proof/Word.lean ====
section
/-! DEFINITION. The word types of CORE: bytes, 32-bit register words and bit strings
(spec/00_scope.md rules R9, R12, R13). -/

namespace Sys2Proof

/-- One byte: a Huffman symbol, a gray level, a memory cell (R9). -/
abbrev Byte := BitVec 8

/-- One register: every register of CORE is 32 bits wide (R9, R33). Bit 0 is the least significant (R12). -/
abbrev Word := BitVec 32

/-- A bit string, first bit first (R13). -/
abbrev BitString := List Bool

end Sys2Proof
end

