-- ==== Sys2Proof/Config.lean ====
section
/-! DEFINITION. What an implementation fixes (the two memory sizes, spec/00_scope.md R8) and the free values:
opaque constants without a body, so that nothing can be proved about what they are. -/

namespace Sys2Proof

/-- The parameters of R8: the sizes in bytes of SRC and DST, each 1 to 2^24. -/
structure Params where
  srcSize : Nat
  dstSize : Nat
  deriving DecidableEq, Repr

/-- REF, the reference configuration of R8. -/
def Config.ref : Params := { srcSize := 4096, dstSize := 4096 }

/-- The largest memory size R8 allows. -/
def Config.maxSize : Nat := 2 ^ 24

/-- The largest run count of a token (R9, R230). -/
def Config.runCap : Nat := 255

/-- FREE VALUE: what draw number `n` of a 32-bit register reads as while BUSY
(R56: "an unspecified value, a fresh draw at every read"). -/
opaque Config.freeWord : Nat → Word

/-- FREE VALUE: what the byte at offset `a` holds by draw number `n`: after a power-on reset (R72, R341) and after a
reset that aborted a command (R343). One value per draw and offset, so a byte stays stable until it is written. -/
opaque Config.freeByte : Nat → Nat → Byte

end Sys2Proof
end

