-- ==== Sys2Proof/Syntax.lean ====
section
/-! DEFINITION. The commands of CORE, one constructor per row of spec/opcode_table.json (R132). A command word
carries no operand (R131): the operands are the argument registers and the internal tables. -/

namespace Sys2Proof

/-- The nine commands of R132. -/
inductive Instr where
  /-- NOP (R282). -/
  | nop
  /-- HUFF_ENCODE (R185). -/
  | huffEncode
  /-- FREQ_COUNT (R161). -/
  | freqCount
  /-- TREE_BUILD (R169). -/
  | treeBuild
  /-- CODE_GEN (R177). -/
  | codeGen
  /-- BIT_PACK (R182). -/
  | bitPack
  /-- RLE_IMAGE (R235). -/
  | rleImage
  /-- RLE_AUDIO (R240). -/
  | rleAudio
  /-- RLE_VIDEO (R245). -/
  | rleVideo
  deriving DecidableEq, Repr

end Sys2Proof
end

