-- ==== Sys2Proof/WellFormed.lean ====
section
/-! DEFINITION. What makes an instruction and a configuration well formed. A command has no operand (R131), so every
instruction is well formed; a configuration is well formed when both sizes are in the range of R8. -/

namespace Sys2Proof

/-- No command carries an operand that could be out of range (R130, R131). -/
def Instr.wf : Instr → Bool
  | .nop => true
  | .huffEncode => true
  | .freqCount => true
  | .treeBuild => true
  | .codeGen => true
  | .bitPack => true
  | .rleImage => true
  | .rleAudio => true
  | .rleVideo => true

/-- The legal range of one memory size (R8). -/
def sizeLegal (n : Nat) : Bool := decide (1 ≤ n) && decide (n ≤ Config.maxSize)

/-- Both sizes are legal (R8). -/
def Params.wf (p : Params) : Bool := sizeLegal p.srcSize && sizeLegal p.dstSize

end Sys2Proof
end

