-- ==== Sys2Proof/Decode.lean ====
section
/-! DEFINITION. The command decoder, total on every 32-bit word (R130 to R134), and the encoder. -/

namespace Sys2Proof

/-- Why a word is no command (R133). Both reasons complete with ILLEGAL_CMD. -/
inductive IllegalWord where
  /-- Some bit of 31:8 is set, whatever the opcode. -/
  | reservedBits
  /-- Bits 31:8 are clear and OP is in 0x06 to 0x0F or 0x13 to 0xFF. -/
  | undefinedOpcode
  deriving DecidableEq, Repr

/-- Field OP, bits 7:0 (R130). -/
def opField (w : Word) : BitVec 8 := w.extractLsb' 0 8

/-- Field RES, bits 31:8 (R130). -/
def resField (w : Word) : BitVec 24 := w.extractLsb' 8 24

/-- The opcode map of R132. -/
def opcodeRows : List (BitVec 8 × Instr) :=
  [(0x00#8, .nop), (0x01#8, .huffEncode), (0x02#8, .freqCount), (0x03#8, .treeBuild), (0x04#8, .codeGen),
   (0x05#8, .bitPack), (0x10#8, .rleImage), (0x11#8, .rleAudio), (0x12#8, .rleVideo)]

/-- R132 and R133: a word selects a command only when bits 31:8 are 0 and OP is in the map; every other word is
illegal, by name. -/
def decode (w : Word) : Except IllegalWord Instr :=
  if resField w = 0#24 then
    match opcodeRows.lookup (opField w) with
    | some i => .ok i
    | none => .error .undefinedOpcode
  else .error .reservedBits

/-- The command word of each command (R132). -/
def encode : Instr → Word
  | .nop => 0x00000000#32
  | .huffEncode => 0x00000001#32
  | .freqCount => 0x00000002#32
  | .treeBuild => 0x00000003#32
  | .codeGen => 0x00000004#32
  | .bitPack => 0x00000005#32
  | .rleImage => 0x00000010#32
  | .rleAudio => 0x00000011#32
  | .rleVideo => 0x00000012#32

/-- The command word that `nbits` bits of `w` make: the bits above are 0. A command is one 32-bit word (R130). -/
def tableWord (nbits w : Nat) : Word := BitVec.ofNat 32 (w % 2 ^ nbits)

/-- What the decoder reads from an instruction whose bits are `w`, numbered as spec/opcode_table.json numbers them.
A number that does not fit one 32-bit word is no command. -/
def decodeTableWord (nbits w : Nat) : Option Instr :=
  if w % 2 ^ nbits < 2 ^ 32 then (decode (tableWord nbits w)).toOption else none

end Sys2Proof
end

