-- ==== Sys2Proof/Machine/State.lean ====
section
/-! DEFINITION. The state of CORE as plain data (spec/10_state.md), the reasons a host access or an instruction can be
turned away, and the state after reset. INVENTORY.md lists every field with the rule that names it. -/

namespace Sys2Proof.Machine

/-- The sequencer (R32). -/
inductive Seq where
  | idle
  | busy
  deriving DecidableEq, Repr

/-- The command error codes (R301). The reserved codes 0x0A to 0xFF are never produced, so they have no constructor
(93_implementation_defined U12). -/
inductive ErrCode where
  | none
  | illegalCmd
  | noTable
  | noTree
  | noCodes
  | srcRange
  | emptyInput
  | badLength
  | missingCode
  | dstOverflow
  deriving DecidableEq, Repr

/-- An existing entry of the node memory (R62). -/
inductive Node where
  | leaf (symbol : Byte) (freq : Word)
  | internal (left right : BitVec 9) (freq : Word)
  deriving DecidableEq, Repr

/-- The five result registers (R44 to R48, R287). -/
structure Results where
  outLen : Word
  pad : BitVec 4
  codeBits : Word
  tokens : Word
  frames : Word
  deriving DecidableEq, Repr

/-- All five result registers 0. -/
def Results.zero : Results := { outLen := 0#32, pad := 0#4, codeBits := 0#32, tokens := 0#32, frames := 0#32 }

/-- A byte memory (R68, R69), by offset. `cells` lists the bytes that were written, addresses strictly rising. A byte
that no cell lists holds a draw: of the first `spans` entry whose offset is at most its own (the resets that aborted a
command, R343, newest first, offsets strictly falling), else of draw number `base` (the power-on draw, R341). -/
structure Memory where
  cells : List Host.Cell
  spans : List (Nat × Nat)
  base : Nat
  deriving DecidableEq, Repr

/-- The width of a host access (R105, R106). -/
inductive Width where
  | byte
  | half
  | word
  deriving DecidableEq, Repr

/-- A bus transaction on the slave port (R117, R135). A write of width w moves the low 8w bits of `data`. -/
inductive Access where
  | read (addr : Word) (w : Width)
  | write (addr : Word) (w : Width) (data : Word)
  deriving DecidableEq, Repr

/-- What the port answers (R108, R117): a completed write, the data of a read (zero extended), or a bus error, which
returns no data. -/
inductive Response where
  | done
  | data (v : Word)
  | busError
  deriving DecidableEq, Repr

/-- What may happen next (R111): a host access, a turn of the engine (its completion if BUSY), a power-on reset. -/
inductive Event where
  | access (a : Access)
  | engine
  | powerOn
  deriving DecidableEq, Repr

/-- Why a host access is refused with a bus error (R108). All are raised by `portAccess` and by nothing else; `step`
turns each into the response `busError` and goes on, since R108 says the access changes no state of CORE. Each is
safe: the spec itself refuses the access. -/
inductive Fault where
  /-- An 8-bit or 16-bit access to the register file (R105). Raised by `portAccess`; safe. -/
  | narrowRegister
  /-- An address that is no multiple of the access width (R105, R106). Raised by `portAccess`; safe. -/
  | misaligned
  /-- A window access past the region's last byte (R101, R106). Raised by `portAccess`; safe. -/
  | beyondRegion
  /-- An address of no region (R101). Raised by `portAccess`; safe. -/
  | unmapped
  /-- An access the BUSY lock refuses (R107). Raised by `portAccess`; safe. -/
  | busyLocked
  deriving DecidableEq, Repr

/-- Why an instruction has no meaning in the model. -/
inductive Refusal where
  /-- Raised only by an arm of `exec` whose instruction has no meaning yet; safe. No arm does: all nine commands have
  their meaning. -/
  | notModelled (mnemonic : String)
  deriving DecidableEq, Repr

/-- Everything the spec gives the machine (10_state.md), and four fields of the model's own: `draws`, `inbox`, `resp`
and the constant `params`. -/
structure State where
  /-- The sizes of SRC and DST, constant (R8, R37). -/
  params : Params
  /-- The sequencer, visible as STATUS.BUSY (R32). -/
  seq : Seq
  /-- CTRL.IRQ_EN (R38). -/
  irqEn : Bool
  /-- STATUS.DONE (R39). -/
  done : Bool
  /-- STATUS.ERR_CODE (R39, R301). -/
  errCode : ErrCode
  /-- STATUS.FT_VALID (R61). -/
  ftValid : Bool
  /-- STATUS.TREE_VALID (R64). -/
  treeValid : Bool
  /-- STATUS.CT_VALID (R66). -/
  ctValid : Bool
  /-- CMD (R40). -/
  cmd : Word
  /-- ERR_INFO (R41). -/
  errInfo : Word
  /-- SRC_OFF (R42). -/
  srcOff : Word
  /-- SRC_LEN (R42). -/
  srcLen : Word
  /-- DST_OFF (R43). -/
  dstOff : Word
  /-- FRAME_LEN (R43). -/
  frameLen : Word
  /-- OUT_LEN, PAD, CODE_BITS, TOKENS, FRAMES (R44 to R48). -/
  results : Results
  /-- FT_SEL (R51). -/
  ftSel : Byte
  /-- CT_SEL (R52). -/
  ctSel : Byte
  /-- NODE_SEL (R54). -/
  nodeSel : BitVec 9
  /-- FT, the frequency table, entry s at position s (R60). -/
  ft : List Word
  /-- NODE, its existing entries 0 to 2n - 2 in order (R62, R63). -/
  nodes : List Node
  /-- CT, the code table, entry s at position s; the empty string is no code (R65). -/
  ct : List BitString
  /-- SRC (R68). -/
  src : Memory
  /-- DST (R69). -/
  dst : Memory
  /-- The number of the next free value (the model's own). -/
  draws : Nat
  /-- What happens next, oldest first (the model's own; R111, R117). -/
  inbox : List Event
  /-- The port's answer to the latest host access (the model's own; R117). -/
  resp : Option Response
  deriving DecidableEq, Repr

/-- The contents FT is given at reset: 256 zeros (R60; unobservable, R72; DESIGN CHOICE, log entry 3). -/
def emptyFreqTable : List Word := List.replicate 256 0#32

/-- The contents CT is given at reset: 256 empty strings (R65; unobservable, R72; DESIGN CHOICE, log entry 3). -/
def emptyCodeTable : List BitString := List.replicate 256 []

/-- The state after a power-on reset (R72, R341) of a CORE with sizes `p`, its SRC and DST bytes by the draws `n` and
`n + 1`. FT, NODE and CT are unspecified and unobservable there (R72): DESIGN CHOICE, log entry 3. -/
def State.powerOn (p : Params) (n : Nat) : State :=
  { params := p
    seq := .idle
    irqEn := false
    done := false
    errCode := .none
    ftValid := false
    treeValid := false
    ctValid := false
    cmd := 0#32
    errInfo := 0#32
    srcOff := 0#32
    srcLen := 0#32
    dstOff := 0#32
    frameLen := 0#32
    results := Results.zero
    ftSel := 0#8
    ctSel := 0#8
    nodeSel := 0#9
    ft := emptyFreqTable
    nodes := []
    ct := emptyCodeTable
    src := { cells := [], spans := [], base := n }
    dst := { cells := [], spans := [], base := n + 1 }
    draws := n + 2
    inbox := []
    resp := none }

/-- The machine right after a power-on reset, in the reference configuration REF of R8 (log entry 2). -/
def State.reset : State := State.powerOn Config.ref 0

end Sys2Proof.Machine
end

