-- ==== Sys2Proof/Machine/Ops.lean ====
section
/-! DEFINITION. The named operations over memory and registers: byte reads and writes, the command life cycle
(acceptance R280, completion R281), taking an error (R302) and returning from it (R284, R316), the all-or-nothing
output (R150) and the two resets (R341 to R343). -/

namespace Sys2Proof.Machine

/-! ### Memory -/

/-- The byte that was written at address `a`, if one was. An address nothing has written holds no written byte. -/
def Memory.stored (m : Memory) (a : Nat) : Option Byte := m.cells.lookup a

/-- The draw number of the byte at address `a`: that of the newest aborted command whose output could have reached
it (R343), else the power-on draw (R341). -/
def Memory.drawAt (m : Memory) (a : Nat) : Nat :=
  match m.spans.find? (fun p => decide (p.1 ≤ a)) with
  | some p => p.2
  | none => m.base

/-- What an unlisted address reads as: a free value (R72, R343). -/
def Memory.unwritten (m : Memory) (a : Nat) : Byte := Config.freeByte (m.drawAt a) a

/-- The byte at address `a`. -/
def Memory.read (m : Memory) (a : Nat) : Byte :=
  match m.stored a with
  | some b => b
  | none => m.unwritten a

/-- Put one cell into a list whose addresses rise, keeping the order. -/
def insertCell (a : Nat) (b : Byte) : List Host.Cell → List Host.Cell
  | [] => [(a, b)]
  | (x, y) :: rest =>
    if a < x then (a, b) :: (x, y) :: rest
    else if a = x then (a, b) :: rest
    else (x, y) :: insertCell a b rest

/-- Write one byte. -/
def Memory.write (m : Memory) (a : Nat) (b : Byte) : Memory := { m with cells := insertCell a b m.cells }

/-- Write bytes at consecutive addresses from `a` up (R102: every byte is a separate one-byte write). -/
def Memory.writeBytes (m : Memory) (a : Nat) : List Byte → Memory
  | [] => m
  | b :: bs => (m.write a b).writeBytes (a + 1) bs

/-- The `k` bytes from address `a` up. -/
def Memory.readBytes (m : Memory) (a : Nat) : Nat → List Byte
  | 0 => []
  | k + 1 => m.read a :: m.readBytes (a + 1) k

/-- Every byte from offset `d` up becomes a draw, the one numbered `n`; the bytes below stay (R343). -/
def Memory.scramble (m : Memory) (d n : Nat) : Memory :=
  { cells := m.cells.filter (fun c => decide (c.1 < d))
    spans := (d, n) :: m.spans.filter (fun p => decide (p.1 < d))
    base := m.base }

/-- The canonical form: cell addresses strictly rise, span offsets strictly fall. -/
abbrev Memory.wf (m : Memory) : Prop :=
  (m.cells.map Prod.fst).Pairwise (· < ·) ∧ (m.spans.map Prod.fst).Pairwise (· > ·)

/-- Every written byte lies inside a memory of `size` bytes. -/
abbrev Memory.within (m : Memory) (size : Nat) : Prop := ∀ c ∈ m.cells, c.1 < size

/-- Bytes to a number, the first byte lowest (R103). -/
def leValue : List Byte → Nat
  | [] => 0
  | b :: bs => b.toNat + 256 * leValue bs

/-- The `k` low bytes of a word, lowest first (R103). -/
def leBytes (v : Word) : Nat → List Byte
  | 0 => []
  | k + 1 => v.setWidth 8 :: leBytes (v >>> 8) k

/-! ### The model's own fields -/

/-- The schedule without the event that has happened. -/
def State.setInbox (rest : List Event) (s : State) : State := { s with inbox := rest }

/-- What the port answers the host (R108, R117). -/
def State.respond (r : Response) (s : State) : State := { s with resp := some r }

/-- The next free value is one further. -/
def State.takeDraw (s : State) : State := { s with draws := s.draws + 1 }

/-! ### Tables -/

/-- Write FT: FT_VALID is set, TREE_VALID and CT_VALID are cleared (R61, R64, R66, R161). -/
def State.putFreq (table : List Word) (s : State) : State :=
  { s with ft := table, ftValid := true, treeValid := false, ctValid := false }

/-- Write NODE: TREE_VALID is set, CT_VALID is cleared (R64, R66, R169). -/
def State.putTree (tree : List Node) (s : State) : State :=
  { s with nodes := tree, treeValid := true, ctValid := false }

/-- Write CT: CT_VALID is set (R66, R177). -/
def State.putCodes (codes : List BitString) (s : State) : State :=
  { s with ct := codes, ctValid := true }

/-- Write output bytes into DST at DST_OFF (R150). -/
def State.putOutput (out : List Byte) (s : State) : State :=
  { s with dst := s.dst.writeBytes s.dstOff.toNat out }

/-! ### The command life cycle -/

/-- Acceptance of the command word `v` (R280). -/
def State.accept (v : Word) (s : State) : State :=
  { s with cmd := v, done := false, errCode := .none, errInfo := 0#32, seq := .busy }

/-- Completion with outcome `(code, info)` and result registers `r` (R281, R287). -/
def State.finish (code : ErrCode) (info : Word) (r : Results) (s : State) : State :=
  { s with errCode := code, errInfo := info, results := r, done := true, seq := .idle }

/-- A successful completion with result registers `r`. -/
def State.succeed (r : Results) (s : State) : State := s.finish .none 0#32 r

/-- `raise E(info)`: the command ends with the error, the result registers all 0 (R302, R287). -/
def State.raise (e : ErrCode) (info : Word) (s : State) : State := s.finish e info Results.zero

/-- The return from an error or a completion: the host acknowledges, clearing DONE and nothing else (R284, R316). -/
def State.acknowledge (s : State) : State := { s with done := false }

/-- The output of N bytes fits into DST (R150: mathematical integers). -/
def State.outputFits (n : Nat) (s : State) : Bool := decide (s.dstOff.toNat + n ≤ s.params.dstSize)

/-- `emit(out)` (R150): if the output fits, the bytes are written and the command succeeds; if not, it ends with
DST_OVERFLOW, writes no byte and keeps the result registers its rule assigned (R287). -/
def State.emit (r : Results) (out : List Byte) (s : State) : State :=
  if s.outputFits out.length then (s.putOutput out).succeed r else s.finish .dstOverflow 0#32 r

/-! ### Resets -/

/-- The commands that write DST (R343). -/
def writesDst : Instr → Bool
  | .nop => false
  | .huffEncode => true
  | .freqCount => false
  | .treeBuild => false
  | .codeGen => false
  | .bitPack => true
  | .rleImage => true
  | .rleAudio => true
  | .rleVideo => true

/-- A command that writes DST is in flight (R343). An illegal word writes nothing. -/
def State.abortsOutput (s : State) : Bool :=
  match s.seq, decode s.cmd with
  | .busy, .ok i => writesDst i
  | _, _ => false

/-- DST after a soft reset: unchanged, or draws from DST_OFF up when a command that writes DST is aborted (R343). -/
def State.dstAfterAbort (s : State) : Memory :=
  if s.abortsOutput then s.dst.scramble s.dstOff.toNat s.draws else s.dst

/-- The soft reset (R342): every register at its reset value, the tables invalid, IDLE; SRC unchanged, DST as R343
says. The schedule and the port's latest answer are the environment's and stay. -/
def State.softReset (s : State) : State :=
  { State.powerOn s.params s.draws with
    src := s.src
    dst := s.dstAfterAbort
    draws := s.draws + 1
    inbox := s.inbox
    resp := s.resp }

/-- The power-on reset of a running CORE (R341): as `State.powerOn`, with fresh draws; the schedule stays. -/
def State.powerCycle (s : State) : State := { State.powerOn s.params s.draws with inbox := s.inbox }

end Sys2Proof.Machine
end

