-- ==== Sys2Proof/Machine/Control.lean ====
section
/-! DEFINITION. The control family (spec/42_control.md): NOP, and the completion of an illegal command word. -/

namespace Sys2Proof.Machine

/-- NOP (R282): the outcome is `(0, 0)`; the result registers keep their values (R287). -/
def execNop (s : State) : Host.Outcome State Fault Refusal := .next (s.succeed s.results)

/-- The completion of a word that is no command (R133): ILLEGAL_CMD. -/
def completeIllegal (s : State) : Host.Outcome State Fault Refusal := .next (s.raise .illegalCmd 0#32)

end Sys2Proof.Machine
end

