-- ==== Sys2Proof/Machine/Operands.lean ====
section
/-! DEFINITION. Every operand form of the commands (R131): the input bytes, the 16-bit audio samples, the video frames,
and the checks on the argument registers in the order of R304. -/

namespace Sys2Proof.Machine

/-- `src(i)` (R17): byte `i` of the command's input. -/
def State.srcByte (s : State) (i : Nat) : Byte := s.src.read (s.srcOff.toNat + i)

/-- `S`, the command's input bytes. -/
def State.input (s : State) : List Byte := s.src.readBytes s.srcOff.toNat s.srcLen.toNat

/-- The input lies inside SRC; the sum is not taken modulo 2^32 (R161, R304). -/
def State.srcInRange (s : State) : Bool := decide (s.srcOff.toNat + s.srcLen.toNat ≤ s.params.srcSize)

/-- The first two checks of every command that reads SRC (R304): SRC_RANGE, then EMPTY_INPUT. -/
def State.inputError (s : State) : Option ErrCode :=
  if !s.srcInRange then some .srcRange
  else if s.srcLen.toNat = 0 then some .emptyInput
  else none

/-- The checks of RLE_AUDIO before its output (R240): SRC_RANGE, EMPTY_INPUT, then BAD_LENGTH for an odd SRC_LEN. -/
def State.audioError (s : State) : Option ErrCode :=
  match s.inputError with
  | some e => some e
  | none => if s.srcLen.toNat % 2 = 1 then some .badLength else none

/-- The checks of RLE_VIDEO before its output (R245): SRC_RANGE, EMPTY_INPUT, then BAD_LENGTH for a FRAME_LEN that is 0
or does not divide SRC_LEN. -/
def State.videoError (s : State) : Option ErrCode :=
  match s.inputError with
  | some e => some e
  | none =>
    if s.frameLen.toNat = 0 || s.srcLen.toNat % s.frameLen.toNat != 0 then some .badLength else none

/-- The little-endian 16-bit samples of a byte sequence of even length: `w_k = S[2k] + 256 * S[2k + 1]` (R240). -/
def samples : List Byte → List (BitVec 16)
  | lo :: hi :: rest => (hi ++ lo) :: samples rest
  | _ => []

/-- Frames `0..F-1` of `fl` bytes each, `F = |S| / fl` (R245). -/
def frames (fl : Nat) (input : List Byte) : List (List Byte) :=
  (List.range (input.length / fl)).map (fun f => (input.drop (f * fl)).take fl)

end Sys2Proof.Machine
end

