-- ==== Sys2Proof/Machine/Streams.lean ====
section
/-! DEFINITION. The output streams (R140 to R143) and the notation they are written in (R13 to R16). -/

namespace Sys2Proof.Machine

/-- A run token: a value and its run count (R16). -/
abbrev Token (α : Type) := α × Nat

/-- `bin8(v)`: the 8-bit string of a byte, most significant bit first (R13). -/
def bin8 (v : Byte) : BitString :=
  [v.getLsbD 7, v.getLsbD 6, v.getLsbD 5, v.getLsbD 4, v.getLsbD 3, v.getLsbD 2, v.getLsbD 1, v.getLsbD 0]

/-- `zeros(k)` (R13). -/
def zeros (k : Nat) : BitString := List.replicate k false

/-- The number a bit string spells, first bit most significant. -/
def bitsValue : BitString → Nat
  | [] => 0
  | b :: bs => (if b then 2 ^ bs.length else 0) + bitsValue bs

/-- `pack(s)` (R14): eight bits to a byte, the first bit of each group is bit 7 of its byte. -/
def pack : BitString → List Byte
  | b0 :: b1 :: b2 :: b3 :: b4 :: b5 :: b6 :: b7 :: rest =>
    BitVec.ofNat 8 (bitsValue [b0, b1, b2, b3, b4, b5, b6, b7]) :: pack rest
  | _ => []

/-- `BE32(v)` (R15). -/
def be32 (v : Word) : List Byte :=
  [v.extractLsb' 24 8, v.extractLsb' 16 8, v.extractLsb' 8 8, v.extractLsb' 0 8]

/-- `LE16(w)` (R15). -/
def le16 (w : BitVec 16) : List Byte := [w.extractLsb' 0 8, w.extractLsb' 8 8]

/-- The pad count, 1 to 8 (R181). -/
def padCount (len : Nat) : Nat := 8 - len % 8

/-- The Huffman stream of a code concatenation (R140): the pad byte, the code bits, the pad zeros after them. -/
def huffmanStream (bits : BitString) : List Byte :=
  pack (bin8 (BitVec.ofNat 8 (padCount bits.length)) ++ bits ++ zeros (padCount bits.length))

/-- The image stream (R141): value and count, one byte each. -/
def imageStream (toks : List (Token Byte)) : List Byte :=
  toks.flatMap (fun t => [t.1, BitVec.ofNat 8 t.2])

/-- The audio stream (R142): the value little-endian in two bytes, then the count in one. -/
def audioStream (toks : List (Token (BitVec 16))) : List Byte :=
  toks.flatMap (fun t => le16 t.1 ++ [BitVec.ofNat 8 t.2])

/-- One video segment (R143): the token count big-endian in four bytes, then the image stream. -/
def videoSegment (toks : List (Token Byte)) : List Byte :=
  be32 (BitVec.ofNat 32 toks.length) ++ imageStream toks

/-- The video stream (R143): the segments of the frames in ascending order. -/
def videoStream (frameToks : List (List (Token Byte))) : List Byte := frameToks.flatMap videoSegment

end Sys2Proof.Machine
end

