-- ==== Sys2Proof/Machine/Huffman.lean ====
section
/-! DEFINITION. The Huffman family (spec/40_huffman.md): the units FREQ, HTB, CTG and BPK as pure functions, then the
five commands that run them. -/

namespace Sys2Proof.Machine

/-! ### FREQ -/

/-- `freq(S)` (R160): entry s counts the bytes of `S` equal to s. -/
def freq (input : List Byte) : List Word :=
  (List.range 256).map (fun s => BitVec.ofNat 32 (input.count (BitVec.ofNat 8 s)))

/-- `FT[s]` (R60). -/
def freqOf (table : List Word) (s : Byte) : Word := table.getD s.toNat 0#32

/-- The symbols with a non-zero count, ascending (R165). -/
def presentSymbols (table : List Word) : List Byte :=
  ((List.range 256).map (BitVec.ofNat 8)).filter (fun s => !decide (freqOf table s = 0#32))

/-! ### HTB -/

/-- A queue entry: a node index keyed by that node's frequency (R165, R166). -/
structure QueueEntry where
  freq : Word
  node : Nat
  deriving DecidableEq, Repr

/-- The order of the keys `(freq, node)`, lexicographic (R166). -/
def keyBefore (a b : QueueEntry) : Bool :=
  decide (a.freq.toNat < b.freq.toNat) || (decide (a.freq.toNat = b.freq.toNat) && decide (a.node < b.node))

/-- `argmin` over the queue, and the queue without it (R165). -/
def extractMin : List QueueEntry → Option (QueueEntry × List QueueEntry)
  | [] => none
  | k :: ks =>
    match extractMin ks with
    | none => some (k, [])
    | some (m, rest) => if keyBefore k m then some (k, m :: rest) else some (m, k :: rest)

/-- The leaves, ascending by symbol (R63, R165). -/
def leaves (table : List Word) : List Node :=
  (presentSymbols table).map (fun s => Node.leaf s (freqOf table s))

/-- The frequency of a node (R62). -/
def nodeFreq : Node → Word
  | .leaf _ f => f
  | .internal _ _ f => f

/-- The queue that holds every node of a list, keyed by its frequency. -/
def initialQueue (tree : List Node) : List QueueEntry :=
  tree.zipIdx.map (fun p => { freq := nodeFreq p.1, node := p.2 })

/-- The merge loop of R165, at most `fuel` merges: the first node extracted becomes the left child, the second the
right one (R167), and the new node takes the next index. -/
def mergeLoop : Nat → List Node → List QueueEntry → List Node
  | 0, tree, _ => tree
  | fuel + 1, tree, queue =>
    match extractMin queue with
    | none => tree
    | some (a, queue') =>
      match extractMin queue' with
      | none => tree
      | some (b, queue'') =>
        mergeLoop fuel
          (tree ++ [Node.internal (BitVec.ofNat 9 a.node) (BitVec.ofNat 9 b.node) (a.freq + b.freq)])
          ({ freq := a.freq + b.freq, node := tree.length } :: queue'')

/-- `build(F)` (R165): n leaves and n - 1 merges. The root is the last node, index 2n - 2 (R63). -/
def build (table : List Word) : List Node :=
  mergeLoop ((leaves table).length - 1) (leaves table) (initialQueue (leaves table))

/-- The index of the root: the last node made (R63, R50). -/
def rootIndex (tree : List Node) : Nat := tree.length - 1

/-! ### CTG -/

/-- `walk(k, p)` (R175): the code of every leaf below node `k`, `p` being the path to it. A path of a tree visits each
of its nodes at most once, so a fuel of the number of nodes is enough. -/
def walk (tree : List Node) : Nat → Nat → BitString → List (Byte × BitString)
  | 0, _, _ => []
  | fuel + 1, k, p =>
    match tree[k]? with
    | none => []
    | some (.leaf s _) => [(s, p)]
    | some (.internal l r _) =>
      walk tree fuel l.toNat (p ++ [false]) ++ walk tree fuel r.toNat (p ++ [true])

/-- The codes of a tree: the walk from the root, or `"0"` for the single leaf (R175, R176). -/
def treeCodes (tree : List Node) : List (Byte × BitString) :=
  match tree[rootIndex tree]? with
  | some (.leaf s _) => [(s, [false])]
  | _ => walk tree tree.length (rootIndex tree) []

/-- `gen(N, root)` (R175): entry s holds the code of symbol s, or the empty string. -/
def gen (tree : List Node) : List BitString :=
  (List.range 256).map (fun s => ((treeCodes tree).lookup (BitVec.ofNat 8 s)).getD [])

/-- `CT[s]` (R65). -/
def codeOf (codes : List BitString) (s : Byte) : BitString := codes.getD s.toNat []

/-! ### BPK -/

/-- `concat(S, C)` (R180). -/
def concatCodes (input : List Byte) (codes : List BitString) : BitString := input.flatMap (codeOf codes)

/-- The position of the first byte that has no code (R182). -/
def firstMissing (input : List Byte) (codes : List BitString) : Option Nat :=
  input.findIdx? (fun b => decide (codeOf codes b = []))

/-- The result registers of HUFF_ENCODE and BIT_PACK for a concatenation of `len` bits (R182, R185):
`N = 1 + (L + pad) / 8`. -/
def huffmanResults (len : Nat) : Results :=
  { outLen := BitVec.ofNat 32 (1 + (len + padCount len) / 8)
    pad := BitVec.ofNat 4 (padCount len)
    codeBits := BitVec.ofNat 32 len
    tokens := 0#32
    frames := 0#32 }

/-- The end of HUFF_ENCODE and BIT_PACK: pack the input with the codes and emit the stream (R182, R185). -/
def packOutput (input : List Byte) (codes : List BitString) (s : State) : State :=
  s.emit (huffmanResults (concatCodes input codes).length) (huffmanStream (concatCodes input codes))

/-! ### The commands -/

/-- HUFF_ENCODE (R185, R305): the tables are written before the output check. -/
def execHuffEncode (s : State) : Host.Outcome State Fault Refusal :=
  match s.inputError with
  | some e => .next (s.raise e 0#32)
  | none =>
    .next (packOutput s.input (gen (build (freq s.input)))
      (((s.putFreq (freq s.input)).putTree (build (freq s.input))).putCodes (gen (build (freq s.input)))))

/-- FREQ_COUNT (R161). -/
def execFreqCount (s : State) : Host.Outcome State Fault Refusal :=
  match s.inputError with
  | some e => .next (s.raise e 0#32)
  | none => .next ((s.putFreq (freq s.input)).succeed Results.zero)

/-- TREE_BUILD (R169). -/
def execTreeBuild (s : State) : Host.Outcome State Fault Refusal :=
  if s.ftValid then .next ((s.putTree (build s.ft)).succeed Results.zero)
  else .next (s.raise .noTable 0#32)

/-- CODE_GEN (R177). -/
def execCodeGen (s : State) : Host.Outcome State Fault Refusal :=
  if s.treeValid then .next ((s.putCodes (gen s.nodes)).succeed Results.zero)
  else .next (s.raise .noTree 0#32)

/-- BIT_PACK (R182): NO_CODES, SRC_RANGE, EMPTY_INPUT, MISSING_CODE, DST_OVERFLOW, in this order (R304). -/
def execBitPack (s : State) : Host.Outcome State Fault Refusal :=
  if s.ctValid then
    match s.inputError with
    | some e => .next (s.raise e 0#32)
    | none =>
      match firstMissing s.input s.ct with
      | some i => .next (s.raise .missingCode (BitVec.ofNat 32 i))
      | none => .next (packOutput s.input s.ct s)
  else .next (s.raise .noCodes 0#32)

end Sys2Proof.Machine
end

