-- ==== Sys2Proof/Machine/Rle.lean ====
section
/-! DEFINITION. The run-length and media family (spec/41_rle_media.md): the tokenizer, then RLE_IMAGE, RLE_AUDIO and
RLE_VIDEO. -/

namespace Sys2Proof.Machine

/-- The scan of R230 with the current run `(v, c)`: the run is extended while the next element equals `v` and `c` is
below the cap; the final run is always closed. -/
def tokenizeFrom {α : Type} [DecidableEq α] (v : α) (c : Nat) : List α → List (Token α)
  | [] => [(v, c)]
  | x :: xs =>
    if x = v ∧ c < Config.runCap then tokenizeFrom v (c + 1) xs
    else (v, c) :: tokenizeFrom x 1 xs

/-- `tokenize(seq)` (R230, R231). -/
def tokenize {α : Type} [DecidableEq α] : List α → List (Token α)
  | [] => []
  | x :: xs => tokenizeFrom x 1 xs

/-- The result registers of an RLE command (R235, R240, R245). -/
def rleResults (outLen tokens frames : Nat) : Results :=
  { outLen := BitVec.ofNat 32 outLen
    pad := 0#4
    codeBits := 0#32
    tokens := BitVec.ofNat 32 tokens
    frames := BitVec.ofNat 32 frames }

/-- The number of tokens of all frames together (R245). -/
def tokenTotal (frameToks : List (List (Token Byte))) : Nat := (frameToks.map List.length).sum

/-- The end of RLE_IMAGE (R235): N = 2T. -/
def imageOutput (toks : List (Token Byte)) (s : State) : State :=
  s.emit (rleResults (2 * toks.length) toks.length 0) (imageStream toks)

/-- The end of RLE_AUDIO (R240): N = 3T. -/
def audioOutput (toks : List (Token (BitVec 16))) (s : State) : State :=
  s.emit (rleResults (3 * toks.length) toks.length 0) (audioStream toks)

/-- The end of RLE_VIDEO (R245): N = 4F + 2T. -/
def videoOutput (frameToks : List (List (Token Byte))) (s : State) : State :=
  s.emit (rleResults (4 * frameToks.length + 2 * tokenTotal frameToks) (tokenTotal frameToks) frameToks.length)
    (videoStream frameToks)

/-- RLE_IMAGE (R235). -/
def execRleImage (s : State) : Host.Outcome State Fault Refusal :=
  match s.inputError with
  | some e => .next (s.raise e 0#32)
  | none => .next (imageOutput (tokenize s.input) s)

/-- RLE_AUDIO (R240). -/
def execRleAudio (s : State) : Host.Outcome State Fault Refusal :=
  match s.audioError with
  | some e => .next (s.raise e 0#32)
  | none => .next (audioOutput (tokenize (samples s.input)) s)

/-- RLE_VIDEO (R245): each frame is tokenized on its own, so no run crosses a frame boundary. -/
def execRleVideo (s : State) : Host.Outcome State Fault Refusal :=
  match s.videoError with
  | some e => .next (s.raise e 0#32)
  | none => .next (videoOutput ((frames s.frameLen.toNat s.input).map tokenize) s)

end Sys2Proof.Machine
end

