-- ==== Sys2Proof/Machine/Dispatch.lean ====
section
/-! DEFINITION. The dispatch: one arm per command, each the completion step of that command (R281). -/

namespace Sys2Proof.Machine

def exec (i : Instr) (s : State) : Host.Outcome State Fault Refusal :=
  match i with
  | .nop => Sys2Proof.Machine.execNop s
  | .huffEncode => Sys2Proof.Machine.execHuffEncode s
  | .freqCount => Sys2Proof.Machine.execFreqCount s
  | .treeBuild => Sys2Proof.Machine.execTreeBuild s
  | .codeGen => Sys2Proof.Machine.execCodeGen s
  | .bitPack => Sys2Proof.Machine.execBitPack s
  | .rleImage => Sys2Proof.Machine.execRleImage s
  | .rleAudio => Sys2Proof.Machine.execRleAudio s
  | .rleVideo => Sys2Proof.Machine.execRleVideo s

end Sys2Proof.Machine
end

