-- ==== Sys2Proof/Machine/Engine.lean ====
section
/-! DEFINITION. The engine's turn (R281): while BUSY exactly one step is enabled, the completion of the word in CMD. -/

namespace Sys2Proof.Machine

/-- The word the engine runs: CMD (R281). -/
def fetchWord (s : State) : Word := s.cmd

/-- The completion step (R281): decode CMD and run that command's rule, or complete with ILLEGAL_CMD (R133). -/
def complete (s : State) : Host.Outcome State Fault Refusal :=
  match decode (fetchWord s) with
  | .ok i => exec i s
  | .error _ => completeIllegal s

/-- The engine's turn: the completion while BUSY, nothing while IDLE (R32, R281). -/
def engineTurn (s : State) : Host.Outcome State Fault Refusal :=
  match s.seq with
  | .busy => complete s
  | .idle => .next s

/-- The host's write of the command word `v` has been accepted (R280) and the engine has the next turn. -/
def State.withCommand (v : Word) (s : State) : State := (s.accept v).setInbox (.engine :: s.inbox)

end Sys2Proof.Machine
end

