-- ==== Sys2Proof/Machine/Flags.lean ====
section
/-! DEFINITION. Every flag computation: the error code numbers (R301), the STATUS word (R39, R56, R57) and the
interrupt output (R310). -/

namespace Sys2Proof.Machine

/-- The number of an error code (R301). -/
def errNumber : ErrCode → BitVec 8
  | .none => 0x00#8
  | .illegalCmd => 0x01#8
  | .noTable => 0x02#8
  | .noTree => 0x03#8
  | .noCodes => 0x04#8
  | .srcRange => 0x05#8
  | .emptyInput => 0x06#8
  | .badLength => 0x07#8
  | .missingCode => 0x08#8
  | .dstOverflow => 0x09#8

/-- STATUS.ERR, the mirror of ERR_CODE (R39). -/
def State.errFlag (s : State) : Bool := !decide (errNumber s.errCode = 0#8)

/-- STATUS.BUSY, the mirror of the sequencer (R32). -/
def State.busyFlag (s : State) : Bool := decide (s.seq = .busy)

/-- One bit at bit position `k` of a word. -/
def flagBit (b : Bool) (k : Nat) : Word := (BitVec.ofBool b).setWidth 32 <<< k

/-- STATUS bits BUSY, DONE, ERR and ERR_CODE; every other bit 0 (R39). -/
def State.statusFixed (s : State) : Word :=
  flagBit s.busyFlag 0 ||| flagBit s.done 1 ||| flagBit s.errFlag 2 ||| (errNumber s.errCode).setWidth 32 <<< 16

/-- STATUS bits FT_VALID, TREE_VALID, CT_VALID; every other bit 0 (R39). -/
def State.statusValid (s : State) : Word :=
  flagBit s.ftValid 8 ||| flagBit s.treeValid 9 ||| flagBit s.ctValid 10

/-- STATUS as a read while IDLE returns it (R39). -/
def State.statusWord (s : State) : Word := s.statusFixed ||| s.statusValid

/-- STATUS as a read while BUSY returns it: the VALID bits are those of the free value `draw` (R56). -/
def State.statusBusy (draw : Word) (s : State) : Word := s.statusFixed ||| (draw &&& 0x00000700#32)

/-- The interrupt output: `IRQ = STATUS.DONE and CTRL.IRQ_EN` (R310). -/
def State.irq (s : State) : Bool := s.done && s.irqEn

end Sys2Proof.Machine
end

