-- ==== Sys2Proof/Machine/Registers.lean ====
section
/-! DEFINITION. The register file (R33): the offsets, what a read returns while IDLE (R34 to R55) and while BUSY (R56),
and what a write does (R34, R38 to R43, R51 to R54, R58). -/

namespace Sys2Proof.Machine

/-- The registers of R33. -/
inductive Reg where
  | id
  | version
  | srcSize
  | dstSize
  | ctrl
  | status
  | cmd
  | errInfo
  | srcOff
  | srcLen
  | dstOff
  | frameLen
  | outLen
  | pad
  | codeBits
  | tokens
  | frames
  | nsym
  | treeRoot
  | ftSel
  | ftCount
  | ctSel
  | ctLen
  | ctCode (k : Fin 8)
  | nodeSel
  | nodeFreq
  | nodeInfo
  /-- The reserved offsets 0x04C and 0x08C to 0xFFC (R58). -/
  | reserved
  deriving DecidableEq, Repr

/-- The register map of R33. -/
def regRows : List (Nat × Reg) :=
  [(0x000, .id), (0x004, .version), (0x008, .srcSize), (0x00C, .dstSize), (0x010, .ctrl), (0x014, .status),
   (0x018, .cmd), (0x01C, .errInfo), (0x020, .srcOff), (0x024, .srcLen), (0x028, .dstOff), (0x02C, .frameLen),
   (0x030, .outLen), (0x034, .pad), (0x038, .codeBits), (0x03C, .tokens), (0x040, .frames), (0x044, .nsym),
   (0x048, .treeRoot), (0x050, .ftSel), (0x054, .ftCount), (0x058, .ctSel), (0x05C, .ctLen)] ++
  [(0x060, .ctCode 0), (0x064, .ctCode 1), (0x068, .ctCode 2), (0x06C, .ctCode 3), (0x070, .ctCode 4),
   (0x074, .ctCode 5), (0x078, .ctCode 6), (0x07C, .ctCode 7), (0x080, .nodeSel), (0x084, .nodeFreq),
   (0x088, .nodeInfo)]

/-- The register at a 4-byte-aligned offset of the register file. -/
def regAt (off : Nat) : Reg := (regRows.lookup off).getD .reserved

/-- The offset of a register; the reserved offsets are stood for by 0x04C. -/
def regOffset : Reg → Nat
  | .id => 0x000
  | .version => 0x004
  | .srcSize => 0x008
  | .dstSize => 0x00C
  | .ctrl => 0x010
  | .status => 0x014
  | .cmd => 0x018
  | .errInfo => 0x01C
  | .srcOff => 0x020
  | .srcLen => 0x024
  | .dstOff => 0x028
  | .frameLen => 0x02C
  | .outLen => 0x030
  | .pad => 0x034
  | .codeBits => 0x038
  | .tokens => 0x03C
  | .frames => 0x040
  | .nsym => 0x044
  | .treeRoot => 0x048
  | .reserved => 0x04C
  | .ftSel => 0x050
  | .ftCount => 0x054
  | .ctSel => 0x058
  | .ctLen => 0x05C
  | .ctCode k => 0x060 + 4 * k.val
  | .nodeSel => 0x080
  | .nodeFreq => 0x084
  | .nodeInfo => 0x088

/-! ### Readback values -/

/-- NSYM (R49). -/
def State.nsymValue (s : State) : Word :=
  if s.ftValid then BitVec.ofNat 32 (presentSymbols s.ft).length else 0#32

/-- TREE_ROOT (R50). -/
def State.treeRootValue (s : State) : Word :=
  if s.treeValid then BitVec.ofNat 32 (rootIndex s.nodes) else 0#32

/-- FT_COUNT (R51). -/
def State.ftCountValue (s : State) : Word := if s.ftValid then freqOf s.ft s.ftSel else 0#32

/-- The code the CT readback shows: that of the selected symbol, or none while CT is invalid (R52, R53). -/
def State.selectedCode (s : State) : BitString := if s.ctValid then codeOf s.ct s.ctSel else []

/-- CT_LEN (R52): bits 7:0. -/
def State.ctLenValue (s : State) : Word := (BitVec.ofNat 8 s.selectedCode.length).setWidth 32

/-- CT_CODEk (R53): bit 31 - j is code bit 32k + j, and 0 past the end of the code. -/
def State.ctCodeValue (s : State) (k : Nat) : Word :=
  BitVec.ofNat 32 (bitsValue ((List.range 32).map (fun j => (s.selectedCode[32 * k + j]?).getD false)))

/-- The node the NODE readback shows, if TREE_VALID is set and the node exists (R54, R55). -/
def State.selectedNode (s : State) : Option Node := if s.treeValid then s.nodes[s.nodeSel.toNat]? else none

/-- NODE_FREQ (R54). -/
def State.nodeFreqValue (s : State) : Word :=
  match s.selectedNode with
  | some n => nodeFreq n
  | none => 0#32

/-- The NODE_INFO word of a node (R55): LEFT 8:0, RIGHT 17:9, SYMBOL 25:18, LEAF 30, EXISTS 31. -/
def nodeInfoWord : Node → Word
  | .leaf s _ => (s.setWidth 32 <<< 18) ||| 0xC0000000#32
  | .internal l r _ => l.setWidth 32 ||| (r.setWidth 32 <<< 9) ||| 0x80000000#32

/-- NODE_INFO (R55). -/
def State.nodeInfoValue (s : State) : Word :=
  match s.selectedNode with
  | some n => nodeInfoWord n
  | none => 0#32

/-! ### Reads -/

/-- What a read returns while IDLE (R34). -/
def regValue (r : Reg) (s : State) : Word :=
  match r with
  | .id => 0x434D5052#32
  | .version => 0x00010000#32
  | .srcSize => BitVec.ofNat 32 s.params.srcSize
  | .dstSize => BitVec.ofNat 32 s.params.dstSize
  | .ctrl => flagBit s.irqEn 0
  | .status => s.statusWord
  | .cmd => s.cmd
  | .errInfo => s.errInfo
  | .srcOff => s.srcOff
  | .srcLen => s.srcLen
  | .dstOff => s.dstOff
  | .frameLen => s.frameLen
  | .outLen => s.results.outLen
  | .pad => s.results.pad.setWidth 32
  | .codeBits => s.results.codeBits
  | .tokens => s.results.tokens
  | .frames => s.results.frames
  | .nsym => s.nsymValue
  | .treeRoot => s.treeRootValue
  | .ftSel => s.ftSel.setWidth 32
  | .ftCount => s.ftCountValue
  | .ctSel => s.ctSel.setWidth 32
  | .ctLen => s.ctLenValue
  | .ctCode k => s.ctCodeValue k.val
  | .nodeSel => s.nodeSel.setWidth 32
  | .nodeFreq => s.nodeFreqValue
  | .nodeInfo => s.nodeInfoValue
  | .reserved => 0#32

/-- The registers that read as a fresh draw while BUSY (R56). STATUS draws only its VALID bits. -/
def drawnWhileBusy : Reg → Bool
  | .status | .errInfo | .outLen | .pad | .codeBits | .tokens | .frames | .nsym | .treeRoot | .ftCount | .ctLen
  | .ctCode _ | .nodeFreq | .nodeInfo => true
  | .id | .version | .srcSize | .dstSize | .ctrl | .cmd | .srcOff | .srcLen | .dstOff | .frameLen | .ftSel | .ctSel
  | .nodeSel | .reserved => false

/-- What a read returns while BUSY, where `draw` is the free value it may use (R56). -/
def regBusyValue (r : Reg) (draw : Word) (s : State) : Word :=
  match r with
  | .status => s.statusBusy draw
  | r => if drawnWhileBusy r then draw else regValue r s

/-- A register read: the value, and the state after it. No read has a side effect (R109); a read that uses a free value
takes one draw. -/
def readReg (r : Reg) (s : State) : Word × State :=
  match s.seq with
  | .idle => (regValue r s, s)
  | .busy =>
    (regBusyValue r (Config.freeWord s.draws) s, if drawnWhileBusy r then s.takeDraw else s)

/-! ### Writes -/

/-- The registers a host may write while BUSY (R107). -/
def writableWhileBusy : Reg → Bool
  | .ctrl | .status => true
  | .id | .version | .srcSize | .dstSize | .cmd | .errInfo | .srcOff | .srcLen | .dstOff | .frameLen | .outLen | .pad
  | .codeBits | .tokens | .frames | .nsym | .treeRoot | .ftSel | .ftCount | .ctSel | .ctLen | .ctCode _ | .nodeSel
  | .nodeFreq | .nodeInfo | .reserved => false

/-- A write to CTRL (R38): bit 1 performs a soft reset, else bit 0 is stored. -/
def writeCtrl (v : Word) (s : State) : State :=
  if v.getLsbD 1 then s.softReset else { s with irqEn := v.getLsbD 0 }

/-- A write to STATUS (R39, R284): bit 1 clears DONE; every other bit is ignored. -/
def writeStatus (v : Word) (s : State) : State := if v.getLsbD 1 then s.acknowledge else s

/-- What an admitted register write does (R34): a read-only register and a reserved offset ignore it. -/
def writeReg (r : Reg) (v : Word) (s : State) : State :=
  match r with
  | .ctrl => writeCtrl v s
  | .status => writeStatus v s
  | .cmd => s.accept v
  | .srcOff => { s with srcOff := v }
  | .srcLen => { s with srcLen := v }
  | .dstOff => { s with dstOff := v }
  | .frameLen => { s with frameLen := v }
  | .ftSel => { s with ftSel := v.setWidth 8 }
  | .ctSel => { s with ctSel := v.setWidth 8 }
  | .nodeSel => { s with nodeSel := v.setWidth 9 }
  | .id | .version | .srcSize | .dstSize | .errInfo | .outLen | .pad | .codeBits | .tokens | .frames | .nsym
  | .treeRoot | .ftCount | .ctLen | .ctCode _ | .nodeFreq | .nodeInfo | .reserved => s

end Sys2Proof.Machine
end

