-- ==== Sys2Proof/Machine/Port.lean ====
section
/-! DEFINITION. The host slave port (spec/20_memory.md): the address map, alignment, widths, the BUSY lock, and the
outcome of one host access. -/

namespace Sys2Proof.Machine

/-- `SRC_BASE` (R17, R101). -/
def srcBase : Nat := 0x01000000

/-- `DST_BASE` (R17, R101). -/
def dstBase : Nat := 0x02000000

/-- The end of the DST part of the map (R101). -/
def dstEnd : Nat := 0x03000000

/-- The size of the register file in bytes (R33, R101). -/
def regFileSize : Nat := 0x1000

/-- A width in bytes (R106). -/
def widthBytes : Width → Nat
  | .byte => 1
  | .half => 2
  | .word => 4

/-- What an access reaches. -/
inductive Place where
  | reg (r : Reg)
  | src (off : Nat)
  | dst (off : Nat)
  deriving DecidableEq, Repr

/-- A register access must be 32 bits wide and 4-byte aligned (R105). -/
def locateReg (off : Nat) (w : Width) : Except Fault Place :=
  if w ≠ .word then .error .narrowRegister
  else if off % 4 ≠ 0 then .error .misaligned
  else .ok (.reg (regAt off))

/-- A window access at offset `off` must be aligned and lie inside the region (R106). -/
def locateWindow (off size : Nat) (w : Width) (place : Place) : Except Fault Place :=
  if off % widthBytes w ≠ 0 then .error .misaligned
  else if size < off + widthBytes w then .error .beyondRegion
  else .ok place

/-- The address map (R101). Both bases are multiples of 4, so the offset's alignment is the address's. -/
def locate (p : Params) (addr : Word) (w : Width) : Except Fault Place :=
  let a := addr.toNat
  if a < regFileSize then locateReg a w
  else if srcBase ≤ a ∧ a < dstBase then locateWindow (a - srcBase) p.srcSize w (.src (a - srcBase))
  else if dstBase ≤ a ∧ a < dstEnd then locateWindow (a - dstBase) p.dstSize w (.dst (a - dstBase))
  else .error .unmapped

/-- The data of a window read (R103): little-endian, zero extended. -/
def windowData (m : Memory) (off : Nat) (w : Width) : Word := BitVec.ofNat 32 (leValue (m.readBytes off (widthBytes w)))

/-- A window after a write (R103): the low bytes of the data, lowest first. -/
def windowWrite (m : Memory) (off : Nat) (w : Width) (v : Word) : Memory := m.writeBytes off (leBytes v (widthBytes w))

/-- A host read of a place: registers always (R107), the windows only while IDLE. -/
def readPlace (place : Place) (w : Width) (s : State) : Host.Outcome State Fault Refusal :=
  match place, s.seq with
  | .reg r, _ => .next ((readReg r s).2.respond (.data (readReg r s).1))
  | .src off, .idle => .next (s.respond (.data (windowData s.src off w)))
  | .dst off, .idle => .next (s.respond (.data (windowData s.dst off w)))
  | .src _, .busy => .fault .busyLocked
  | .dst _, .busy => .fault .busyLocked

/-- A host write of a place: while BUSY only CTRL and STATUS (R107). -/
def writePlace (place : Place) (w : Width) (v : Word) (s : State) : Host.Outcome State Fault Refusal :=
  match place, s.seq with
  | .reg r, .idle => .next ((writeReg r v s).respond .done)
  | .reg r, .busy => if writableWhileBusy r then .next ((writeReg r v s).respond .done) else .fault .busyLocked
  | .src off, .idle => .next ({ s with src := windowWrite s.src off w v }.respond .done)
  | .dst off, .idle => .next ({ s with dst := windowWrite s.dst off w v }.respond .done)
  | .src _, .busy => .fault .busyLocked
  | .dst _, .busy => .fault .busyLocked

/-- The outcome of one host access: the state after it, or the fault of a refused one (R108). -/
def portAccess (a : Access) (s : State) : Host.Outcome State Fault Refusal :=
  match a with
  | .read addr w =>
    match locate s.params addr w with
    | .error f => .fault f
    | .ok place => readPlace place w s
  | .write addr w v =>
    match locate s.params addr w with
    | .error f => .fault f
    | .ok place => writePlace place w v s

/-- One host access as a step of the machine: a refused access changes no state of CORE, and the host gets an error
response (R108). -/
def hostTurn (a : Access) (s : State) : Host.Outcome State Fault Refusal :=
  match portAccess a s with
  | .next t => .next t
  | .fault _ => .next (s.respond .busError)
  | .refused r => .refused r

end Sys2Proof.Machine
end

