-- ==== Sys2Proof/Machine/Step.lean ====
section
/-! DEFINITION. One step of the machine: the next event of the schedule, or, when the schedule is empty, the engine's
turn (R111, R281): a BUSY engine completes, an IDLE one waits for the host. -/

namespace Sys2Proof.Machine

/-- One step: the oldest event of the schedule happens (R111). -/
def step (s : State) : Host.Outcome State Fault Refusal :=
  match s.inbox with
  | [] => engineTurn s
  | .engine :: rest => engineTurn (s.setInbox rest)
  | .access a :: rest => hostTurn a (s.setInbox rest)
  | .powerOn :: rest => .next (s.setInbox rest).powerCycle

/-- `s` with the command whose bits are `w` accepted (R280) and the engine's turn next, so that the very next step
completes it. -/
def State.withFetchWord (s : State) (nbits w : Nat) : State := s.withCommand (tableWord nbits w)

end Sys2Proof.Machine
end

