-- ==== Sys2Proof/Machine/HostScript.lean ====
section
/-! DEFINITION. The host-script notation (R135, R136): each statement is one bus transaction, each pseudo-statement a
list of statements. It is notation for what a schedule holds; no behaviour depends on it. -/

namespace Sys2Proof.Machine

/-- The two memories a host reaches (R135). -/
inductive Window where
  | src
  | dst
  deriving DecidableEq, Repr

/-- The block address of byte `off` of a memory (R101, R135). -/
def windowAddr (m : Window) (off : Nat) : Word :=
  match m with
  | .src => BitVec.ofNat 32 (srcBase + off)
  | .dst => BitVec.ofNat 32 (dstBase + off)

/-- The block address of a register (R33). -/
def regAddr (r : Reg) : Word := BitVec.ofNat 32 (regOffset r)

/-- A statement (R135): WR, RD, ST8 to ST32, LD8 to LD32. -/
inductive Statement where
  | wr (r : Reg) (v : Word)
  | rd (r : Reg)
  | st (w : Width) (m : Window) (off : Nat) (v : Word)
  | ld (w : Width) (m : Window) (off : Nat)
  deriving DecidableEq, Repr

/-- The bus transaction of a statement (R135). -/
def statementAccess : Statement → Access
  | .wr r v => .write (regAddr r) .word v
  | .rd r => .read (regAddr r) .word
  | .st w m off v => .write (windowAddr m off) w v
  | .ld w m off => .read (windowAddr m off) w

/-- A pseudo-statement (R136). WAIT repeats one STATUS read until it sees BUSY = 0: `polls` is how many reads that
took. EXPECT is no transaction and has no constructor. -/
inductive Pseudo where
  | cmd (i : Instr)
  | wait (polls : Nat)
  | run (i : Instr) (polls : Nat)
  | ack
  | srst
  | args (so sl dd : Word)
  | argsFrame (so sl dd fl : Word)
  | load (off : Nat) (bytes : List Byte)
  deriving DecidableEq, Repr

/-- LOAD: one ST8 per byte, at consecutive offsets (R136). -/
def loadStatements (off : Nat) : List Byte → List Statement
  | [] => []
  | b :: bs => .st .byte .src off (b.setWidth 32) :: loadStatements (off + 1) bs

/-- The expansion of a pseudo-statement (R136). -/
def expandPseudo : Pseudo → List Statement
  | .cmd i => [.wr .cmd (encode i)]
  | .wait polls => List.replicate polls (.rd .status)
  | .run i polls => .wr .cmd (encode i) :: List.replicate polls (.rd .status)
  | .ack => [.wr .status 0x00000002#32]
  | .srst => [.wr .ctrl 0x00000002#32]
  | .args so sl dd => [.wr .srcOff so, .wr .srcLen sl, .wr .dstOff dd]
  | .argsFrame so sl dd fl => [.wr .srcOff so, .wr .srcLen sl, .wr .dstOff dd, .wr .frameLen fl]
  | .load off bytes => loadStatements off bytes

end Sys2Proof.Machine
end

