-- ==== Sys2Proof/Safety.lean ====
section
/-! DEFINITION. What the statements speak of: the invariant of every run, what a command leaves alone, what it records,
and the spec's own descriptions of a token list, a Huffman tree and a code path, written apart from the functions that
compute them. -/

namespace Sys2Proof.Machine

/-! ### The invariant -/

/-- What holds at reset and after every step. -/
structure Coherent (s : State) : Prop where
  /-- Both sizes are legal (R8). -/
  paramsLegal : s.params.wf = true
  /-- SRC is in canonical form. -/
  srcWf : s.src.wf
  /-- No written byte lies outside SRC (R68). -/
  srcWithin : s.src.within s.params.srcSize
  /-- No reset makes a SRC byte a draw again but a power-on (R342). -/
  srcSpans : s.src.spans = []
  /-- DST is in canonical form. -/
  dstWf : s.dst.wf
  /-- No written byte lies outside DST (R69). -/
  dstWithin : s.dst.within s.params.dstSize
  /-- The draws of the memories have been taken, so the next one is fresh (R56, R343). -/
  drawsTaken : s.src.base < s.draws ∧ s.dst.base < s.draws ∧ ∀ p ∈ s.dst.spans, p.2 < s.draws
  /-- While BUSY no outcome is recorded (R56, R280). -/
  busyQuiet : s.seq = .busy → s.done = false ∧ s.errCode = .none ∧ s.errInfo = 0#32
  /-- FT has 256 entries (R60). -/
  ftEntries : s.ft.length = 256
  /-- CT has 256 entries (R65). -/
  ctEntries : s.ct.length = 256
  /-- A valid FT counts something (R61). -/
  ftCounts : s.ftValid = true → ∃ v, freqOf s.ft v ≠ 0#32
  /-- The counts of a valid FT add up to at most 2^24 (R11). -/
  ftTotal : s.ftValid = true → (s.ft.map BitVec.toNat).sum ≤ Config.maxSize
  /-- A valid NODE is the tree of the current FT (R64). -/
  treeOfFreq : s.treeValid = true → s.ftValid = true ∧ s.nodes = build s.ft
  /-- A valid CT holds the codes of the current tree (R66). -/
  codesOfTree : s.ctValid = true → s.treeValid = true ∧ s.ct = gen s.nodes

/-! ### What a command leaves alone and what it records -/

/-- What no command changes: the parameters, CTRL, CMD, the argument and select registers, SRC, and the model's own
fields (R42, R43, R68, R131, R302). -/
def Untouched (s t : State) : Prop :=
  t.params = s.params ∧ t.irqEn = s.irqEn ∧ t.cmd = s.cmd ∧
  t.srcOff = s.srcOff ∧ t.srcLen = s.srcLen ∧ t.dstOff = s.dstOff ∧ t.frameLen = s.frameLen ∧
  t.ftSel = s.ftSel ∧ t.ctSel = s.ctSel ∧ t.nodeSel = s.nodeSel ∧
  t.src = s.src ∧ t.draws = s.draws ∧ t.inbox = s.inbox ∧ t.resp = s.resp

/-- FT, NODE, CT and the three VALID bits are as before. -/
def SameTables (s t : State) : Prop :=
  t.ft = s.ft ∧ t.nodes = s.nodes ∧ t.ct = s.ct ∧
  t.ftValid = s.ftValid ∧ t.treeValid = s.treeValid ∧ t.ctValid = s.ctValid

/-- The completion record (R281, R302): the outcome `(e, info)`, DONE, IDLE. -/
def Recorded (e : ErrCode) (info : Word) (t : State) : Prop :=
  t.errCode = e ∧ t.errInfo = info ∧ t.done = true ∧ t.seq = .idle

/-- A completion with DST_OVERFLOW (R150, R287): no DST byte is written, the result registers hold `r`. -/
def Overflowed (r : Results) (s t : State) : Prop :=
  Recorded .dstOverflow 0#32 t ∧ t.results = r ∧ Untouched s t ∧ t.dst = s.dst

/-- The bytes of DST outside the `n` bytes from DST_OFF up read as before. -/
def DstKeptOutside (n : Nat) (s t : State) : Prop :=
  ∀ a, (a < s.dstOff.toNat ∨ s.dstOff.toNat + n ≤ a) → t.dst.read a = s.dst.read a

/-- Byte `j` of the output, read where the command wrote it (R150). -/
def outByte (s t : State) (j : Nat) : Byte := t.dst.read (s.dstOff.toNat + j)

/-- The six commands that read SRC (R301). -/
def readsSrc : Instr → Bool
  | .huffEncode | .freqCount | .bitPack | .rleImage | .rleAudio | .rleVideo => true
  | .nop | .treeBuild | .codeGen => false

/-! ### Run tokens (R232) -/

/-- Two consecutive tokens share a value only if the first has the count 255 (90_conflicts C4). -/
def MaximalRuns {α : Type} : List (Token α) → Prop
  | t :: u :: rest => (t.1 = u.1 → t.2 = 255) ∧ MaximalRuns (u :: rest)
  | _ => True

/-- The three facts of R232 that fix the token list of a sequence. -/
def EncodesRuns {α : Type} (seq : List α) (toks : List (Token α)) : Prop :=
  toks.flatMap (fun t => List.replicate t.2 t.1) = seq ∧
  (∀ t ∈ toks, 1 ≤ t.2 ∧ t.2 ≤ 255) ∧
  MaximalRuns toks

/-! ### Huffman trees (R165 to R167) -/

/-- Node `m` of the tree is internal and `j` is one of its children. -/
def IsChild (tree : List Node) (m j : Nat) : Prop :=
  ∃ l r f, tree[m]? = some (Node.internal l r f) ∧ (l.toNat = j ∨ r.toNat = j)

/-- Node `j` waits in the queue when node `k` is made: it exists and no node made before `k` has it as a child. -/
def Waiting (tree : List Node) (k j : Nat) : Prop := j < k ∧ ∀ m, m < k → ¬ IsChild tree m j

/-- The frequency of node `j`. -/
def freqAt (tree : List Node) (j : Nat) : Word :=
  match tree[j]? with
  | some n => nodeFreq n
  | none => 0#32

/-- The key of node `i` comes before that of node `j`: lower frequency, or equal frequency and lower index (R166). -/
def KeyLess (tree : List Node) (i j : Nat) : Prop :=
  (freqAt tree i).toNat < (freqAt tree j).toNat ∨ (freqAt tree i = freqAt tree j ∧ i < j)

/-- Node `k` merges the two waiting nodes with the least keys, the least one on the left, and has the sum of their
frequencies (R165, R166, R167). -/
def MergesLeastTwo (tree : List Node) (k : Nat) : Prop :=
  ∃ l r : BitVec 9,
    tree[k]? = some (Node.internal l r (freqAt tree l.toNat + freqAt tree r.toNat)) ∧
    Waiting tree k l.toNat ∧ Waiting tree k r.toNat ∧ l ≠ r ∧
    (∀ j, Waiting tree k j → j ≠ l.toNat → KeyLess tree l.toNat j) ∧
    (∀ j, Waiting tree k j → j ≠ l.toNat → j ≠ r.toNat → KeyLess tree r.toNat j)

/-- The tree R165 builds from a table: the leaves are the present symbols in ascending order, every later node merges
the two least of the waiting ones, and 2n - 1 nodes exist. -/
structure IsHuffmanTree (table : List Word) (syms : List Byte) (tree : List Node) : Prop where
  symsPresent : ∀ v, v ∈ syms ↔ freqOf table v ≠ 0#32
  symsAscend : (syms.map BitVec.toNat).Pairwise (· < ·)
  size : tree.length + 1 = 2 * syms.length
  leaf : ∀ (k : Nat) (v : Byte), syms[k]? = some v → tree[k]? = some (Node.leaf v (freqOf table v))
  merge : ∀ k, syms.length ≤ k → k < tree.length → MergesLeastTwo tree k

/-- The node a path of branch bits leads to from node `k` (R175): 0 goes left, 1 goes right. -/
def follow (tree : List Node) (k : Nat) : BitString → Option Node
  | [] => tree[k]?
  | b :: bs =>
    match tree[k]? with
    | some (.internal l r _) => follow tree (if b then r.toNat else l.toNat) bs
    | _ => none

/-! ### The port (R101, R105, R106) -/

/-- The accesses the map admits while IDLE. -/
def Admitted (p : Params) (addr : Word) (w : Width) : Prop :=
  (addr.toNat < 0x1000 ∧ w = .word ∧ addr.toNat % 4 = 0) ∨
  (0x01000000 ≤ addr.toNat ∧ addr.toNat % widthBytes w = 0 ∧
    addr.toNat + widthBytes w ≤ 0x01000000 + p.srcSize) ∨
  (0x02000000 ≤ addr.toNat ∧ addr.toNat % widthBytes w = 0 ∧
    addr.toNat + widthBytes w ≤ 0x02000000 + p.dstSize)

/-- The event is a reset: the reset input, or a host write of 1 to CTRL bit 1 (R340). -/
def isReset : Event → Bool
  | .powerOn => true
  | .access (.write addr w v) => decide (addr = regAddr .ctrl) && decide (w = .word) && v.getLsbD 1
  | .access (.read _ _) => false
  | .engine => false

end Sys2Proof.Machine
end

