-- ==== Sys2Proof/Certificates/Slice0/Obligations.lean ====
section
/-! DEFINITION. The statements for the provers. Each docstring says which statement of the spec it formalises. -/

open Sys2Proof Sys2Proof.Machine

/-! ### Encoding -/

/-- R132: each command word of the opcode map is decoded as its command. R133's two examples and the word 0xFF are
illegal. A sanity statement on written-out words. -/
def Obligations.TableWordsDecode : Prop :=
  decode 0x00000000#32 = .ok .nop ∧ decode 0x00000001#32 = .ok .huffEncode ∧
  decode 0x00000002#32 = .ok .freqCount ∧ decode 0x00000003#32 = .ok .treeBuild ∧
  decode 0x00000004#32 = .ok .codeGen ∧ decode 0x00000005#32 = .ok .bitPack ∧
  decode 0x00000010#32 = .ok .rleImage ∧ decode 0x00000011#32 = .ok .rleAudio ∧
  decode 0x00000012#32 = .ok .rleVideo ∧
  decode 0x00000006#32 = .error .undefinedOpcode ∧ decode 0x000000FF#32 = .error .undefinedOpcode ∧
  decode 0x00000101#32 = .error .reservedBits

/-- R132, R134: over ALL 32-bit words, a word decodes to a command exactly when it is that command's word. Both
directions: decoding an encoded command gives it back, and no other word selects a command. -/
def Obligations.WordSelectsCommandExactlyByTheMap : Prop :=
  ∀ (w : Word) (i : Instr), decode w = .ok i ↔ w = encode i

/-- R133: every other word is illegal, a word with any of bits 31:8 set whatever its opcode, and a word with those bits
clear and OP in 0x06 to 0x0F or 0x13 to 0xFF. The decoder is total. -/
def Obligations.EveryOtherWordIsIllegalByName : Prop :=
  ∀ w : Word,
    (decode w = .error .reservedBits ↔ 0x100 ≤ w.toNat) ∧
    (decode w = .error .undefinedOpcode ↔
      w.toNat < 0x100 ∧ ((0x06 ≤ w.toNat ∧ w.toNat ≤ 0x0F) ∨ 0x13 ≤ w.toNat)) ∧
    ((∃ i, decode w = .ok i) ↔ (w.toNat ≤ 0x05 ∨ (0x10 ≤ w.toNat ∧ w.toNat ≤ 0x12)))

/-! ### The step -/

/-- R281: a step that gives a BUSY engine its turn runs exactly the command the word in CMD decodes to. The step takes
the turn off the schedule first; with an empty schedule nothing is taken. The schedule is the model's own choice (log
entry 5). -/
def Obligations.StepRunsTheDecodedCommand : Prop :=
  ∀ (s : State) (i : Instr) (rest : List Event), s.seq = .busy → decode s.cmd = .ok i →
    (s.inbox = [] → step s = exec i s) ∧
    (s.inbox = .engine :: rest → step s = exec i { s with inbox := rest })

/-- R111, R281: a host access at the head of the schedule is performed by this step, a reset input likewise; an IDLE
engine's turn and an empty schedule change nothing else. The model's own choices: the schedule (log entry 5), and in the
whole state after the reset input the table contents (log entry 3) and the numbers of the draws (log entry 4). -/
def Obligations.StepPerformsTheOldestEvent : Prop :=
  ∀ (s : State) (rest : List Event),
    (∀ a, s.inbox = .access a :: rest → step s = hostTurn a { s with inbox := rest }) ∧
    (s.inbox = .powerOn :: rest → step s = .next { State.powerOn s.params s.draws with inbox := rest }) ∧
    (s.seq = .idle → s.inbox = .engine :: rest → step s = .next { s with inbox := rest }) ∧
    (s.seq = .idle → s.inbox = [] → step s = .next s)

/-- 93_implementation_defined, end of part 1: "No behaviour of CORE is `stuck`." No step of any state ends in a fault or
a refusal. Command errors are recorded outcomes (R300). A refused access is a fault of the host's transaction (R108); that
the step goes on with an error answer is the model's choice (log entry 7). -/
def Obligations.NoStepEverStops : Prop :=
  ∀ s : State, ∃ t : State, step s = .next t

/-- R281, R107, R70: a BUSY CORE that no reset ends completes after finitely many steps, at the latest when the host's
pending accesses are used up; until then CMD, the argument registers, the tables, SRC and DST are as they were. That an
empty schedule lets the engine complete is the model's own choice (log entry 5). -/
def Obligations.BusyCommandCompletesWithStableInputs : Prop :=
  ∀ s : State, s.seq = .busy → (∀ e ∈ s.inbox, isReset e = false) →
    ∃ (k : Nat) (u t : State), k ≤ s.inbox.length ∧ Sys2Proof.core.run k s = .next u ∧
      u.seq = .busy ∧ u.cmd = s.cmd ∧ u.srcOff = s.srcOff ∧ u.srcLen = s.srcLen ∧ u.dstOff = s.dstOff ∧
      u.frameLen = s.frameLen ∧ u.src = s.src ∧ u.dst = s.dst ∧ SameTables s u ∧ u.results = s.results ∧
      step u = .next t ∧ t.seq = .idle ∧ t.done = true

/-- R133, R302, R287: the completion of a word that is no command records ILLEGAL_CMD with ERR_INFO 0, all five result
registers 0, DONE and IDLE, and changes nothing else: with an empty schedule, and when the engine's turn is at its head
(which is taken off; the schedule is the model's own choice, log entry 5). -/
def Obligations.IllegalWordCompletesWithIllegalCmd : Prop :=
  ∀ (s : State) (why : IllegalWord) (rest : List Event), s.seq = .busy → decode s.cmd = .error why →
    let t : State := { s with
      errCode := .illegalCmd
      errInfo := 0#32
      results := { outLen := 0#32, pad := 0#4, codeBits := 0#32, tokens := 0#32, frames := 0#32 }
      done := true
      seq := .idle }
    (s.inbox = [] → step s = .next t) ∧
    (s.inbox = .engine :: rest → step s = .next { t with inbox := rest })

/-! ### The invariant -/

/-- The invariant holds at reset, and after a power-on of every legal configuration. The model's own choices: the sizes of
State.reset (log entry 2), the contents of FT, NODE and CT (log entry 3), the numbers of the draws (log entry 4). -/
def Obligations.InvariantHoldsAtReset : Prop :=
  Coherent State.reset ∧ ∀ (p : Params) (n : Nat), p.wf = true → Coherent (State.powerOn p n)

/-- Every step keeps the invariant: the sizes stay legal (R8), both memories keep their canonical form and their bounds
(R68, R69), a BUSY CORE records no outcome (R56, R280), a valid FT counts something and at most 2^24 (R61, R11), a valid
NODE is the tree of the current FT (R64), a valid CT holds the codes of the current tree (R66), free values are fresh
(their numbering is the model's own choice, log entry 4). -/
def Obligations.EveryStepKeepsTheInvariant : Prop :=
  ∀ s t : State, Coherent s → step s = .next t → Coherent t

/-! ### Resets -/

/-- R33, R72, R341: after a power-on reset of any legal configuration every register reads its reset value, CORE is
IDLE and IRQ is 0. -/
def Obligations.PowerOnRegisterValues : Prop :=
  ∀ (p : Params) (n : Nat), p.wf = true →
    let s := State.powerOn p n
    s.seq = .idle ∧ s.irq = false ∧
    regValue .id s = 0x434D5052#32 ∧ regValue .version s = 0x00010000#32 ∧
    (regValue .srcSize s).toNat = p.srcSize ∧ (regValue .dstSize s).toNat = p.dstSize ∧
    ∀ r, r ≠ .id → r ≠ .version → r ≠ .srcSize → r ≠ .dstSize → regValue r s = 0#32

/-- R341, R72: the reset input makes every SRC and DST byte a draw, the registers those of the power-on column, and
abandons a command in flight without a completion; the sizes stay. The draws are new ones. The model's own choices: that
every DST byte is one also while BUSY, R341 followed where R343 speaks of rst_n too (log entry 1), and the numbers of the
draws (log entry 4). -/
def Obligations.ResetInputRestartsTheMachine : Prop :=
  ∀ (s : State) (rest : List Event), s.inbox = .powerOn :: rest →
    ∃ t, step s = .next t ∧ t.params = s.params ∧ t.inbox = rest ∧ t.seq = .idle ∧ t.done = false ∧
      t.errCode = .none ∧ t.irq = false ∧ t.ftValid = false ∧ t.treeValid = false ∧ t.ctValid = false ∧
      (∀ r, r ≠ .id → r ≠ .version → r ≠ .srcSize → r ≠ .dstSize → regValue r t = 0#32) ∧
      (∀ a, t.src.read a = Config.freeByte s.draws a) ∧
      (∀ a, t.dst.read a = Config.freeByte (s.draws + 1) a)

/-- R342, R38: a host write of 1 to CTRL bit 1 is admitted in IDLE and in BUSY, whatever bit 0 is; it returns every
register to its reset value, makes the tables invalid and CORE IDLE, and leaves SRC unchanged; DST is unchanged when no
command that writes DST was in flight. -/
def Obligations.SoftResetReturnsEveryRegister : Prop :=
  ∀ (s : State) (v : Word), v.getLsbD 1 = true →
    ∃ t, hostTurn (.write 0x00000010#32 .word v) s = .next t ∧ t.resp = some .done ∧
      t.params = s.params ∧ t.inbox = s.inbox ∧ t.seq = .idle ∧ t.irqEn = false ∧ t.irq = false ∧
      t.ftValid = false ∧ t.treeValid = false ∧ t.ctValid = false ∧
      (∀ r, r ≠ .id → r ≠ .version → r ≠ .srcSize → r ≠ .dstSize → regValue r t = 0#32) ∧
      t.src = s.src ∧
      (s.seq = .idle ∨ (∀ i, decode s.cmd = .ok i → writesDst i = false) → t.dst = s.dst)

/-- R343: a soft reset while a command is in flight ends it with no completion, the tables invalid. If the command
writes DST, every DST byte from DST_OFF up becomes a draw and the bytes below are unchanged; if it is any other command or
an illegal word, DST is unchanged. The model's own choices: the range has no bound at DST_SIZE,
past which there is no byte (log entry 12), and the number of the draw (log entry 4). -/
def Obligations.AbortDrawsTheOutputRange : Prop :=
  ∀ (s : State) (v : Word), s.seq = .busy → v.getLsbD 1 = true →
    ∃ t, hostTurn (.write 0x00000010#32 .word v) s = .next t ∧
      t.seq = .idle ∧ t.done = false ∧ t.errCode = .none ∧ t.irq = false ∧
      t.ftValid = false ∧ t.treeValid = false ∧ t.ctValid = false ∧
      (∀ i, decode s.cmd = .ok i → i ∈ [Instr.huffEncode, .bitPack, .rleImage, .rleAudio, .rleVideo] →
        (∀ a, s.dstOff.toNat ≤ a → t.dst.read a = Config.freeByte s.draws a) ∧
        (∀ a, a < s.dstOff.toNat → t.dst.read a = s.dst.read a)) ∧
      ((∀ i, decode s.cmd = .ok i → i ∈ [Instr.nop, .freqCount, .treeBuild, .codeGen]) → t.dst = s.dst)

/-! ### The command life cycle -/

/-- R280: a write to CMD while IDLE is accepted whatever the word; CMD, DONE, ERR_CODE, ERR_INFO and the sequencer
change and nothing else does (the port answers that the write completed); IRQ falls. A write to CMD while BUSY is refused
with a bus error and the command in flight is not disturbed. -/
def Obligations.AcceptanceStoresTheWordAndGoesBusy : Prop :=
  ∀ (s : State) (v : Word),
    (s.seq = .idle →
      hostTurn (.write 0x00000018#32 .word v) s =
        .next { s with
          cmd := v, done := false, errCode := .none, errInfo := 0#32, seq := .busy, resp := some .done } ∧
      State.irq { s with
          cmd := v, done := false, errCode := .none, errInfo := 0#32, seq := .busy, resp := some .done } = false) ∧
    (s.seq = .busy → hostTurn (.write 0x00000018#32 .word v) s = .next { s with resp := some .busError })

/-- R284: a write to STATUS clears DONE if bit 1 is 1 and leaves it if bit 1 is 0; no other state changes, and every
other bit of the written value is ignored. While BUSY, in a state the invariant allows, DONE is already 0 and the write
has no effect. -/
def Obligations.AcknowledgeClearsOnlyDone : Prop :=
  ∀ (s : State) (v : Word),
    hostTurn (.write 0x00000014#32 .word v) s =
      .next { s with done := if v.getLsbD 1 then false else s.done, resp := some .done } ∧
    (Coherent s → s.seq = .busy →
      s.done = false ∧ hostTurn (.write 0x00000014#32 .word v) s = .next { s with resp := some .done })

/-- R310, R311: IRQ is DONE and IRQ_EN. It rises at the completion of any command, success or error, when IRQ_EN is set,
and when the host sets IRQ_EN while DONE is 1; it falls when DONE is acknowledged, at the next acceptance, at either
reset, and when IRQ_EN is written 0, which keeps DONE. -/
def Obligations.InterruptIsDoneAndEnabled : Prop :=
  ∀ s : State,
    (s.irq = true ↔ s.done = true ∧ s.irqEn = true) ∧
    (∀ i t, exec i s = .next t → t.irq = s.irqEn ∧ t.done = true ∧ t.seq = .idle) ∧
    (∀ v : Word, v.getLsbD 1 = false → ∃ u, hostTurn (.write 0x00000010#32 .word v) s = .next u ∧
      u.done = s.done ∧ u.irq = (s.done && v.getLsbD 0)) ∧
    (∀ v : Word, v.getLsbD 1 = true → ∃ u, hostTurn (.write 0x00000014#32 .word v) s = .next u ∧ u.irq = false) ∧
    (∀ v : Word, s.seq = .idle → ∃ u, hostTurn (.write 0x00000018#32 .word v) s = .next u ∧ u.irq = false) ∧
    (∀ v : Word, v.getLsbD 1 = true → ∃ u, hostTurn (.write 0x00000010#32 .word v) s = .next u ∧ u.irq = false) ∧
    (∀ rest, s.inbox = .powerOn :: rest → ∃ u, step s = .next u ∧ u.irq = false)

/-! ### The port -/

/-- R101, R105, R106, R108: while IDLE the port admits exactly the accesses of the address map, reads and writes alike;
it refuses every other one with a bus error that changes no state of CORE. -/
def Obligations.IdlePortAdmitsExactlyTheMap : Prop :=
  ∀ (s : State) (addr : Word) (w : Width) (v : Word), s.params.wf = true → s.seq = .idle →
    (Admitted s.params addr w →
      (∃ t, portAccess (.read addr w) s = .next t) ∧ (∃ t, portAccess (.write addr w v) s = .next t)) ∧
    (¬ Admitted s.params addr w →
      hostTurn (.read addr w) s = .next { s with resp := some .busError } ∧
      hostTurn (.write addr w v) s = .next { s with resp := some .busError })

/-- R107: while BUSY every read of a register is admitted; a write of the register file is admitted at CTRL (0x010) and
STATUS (0x014) only; every access to SRC or DST is refused. With R105: an access to the register file that is not 32 bits
wide or not aligned is refused while BUSY too. A refused access changes nothing. -/
def Obligations.BusyPortLocksTheMachine : Prop :=
  ∀ (s : State) (addr : Word) (w : Width) (v : Word), s.seq = .busy →
    (addr.toNat < 0x1000 → addr.toNat % 4 = 0 →
      (∃ t d, hostTurn (.read addr .word) s = .next t ∧ t.resp = some (.data d)) ∧
      (addr = 0x00000010#32 ∨ addr = 0x00000014#32 →
        ∃ t, hostTurn (.write addr .word v) s = .next t ∧ t.resp = some .done) ∧
      (addr ≠ 0x00000010#32 → addr ≠ 0x00000014#32 →
        hostTurn (.write addr .word v) s = .next { s with resp := some .busError })) ∧
    ((addr.toNat < 0x1000 ∧ (w ≠ .word ∨ addr.toNat % 4 ≠ 0)) ∨ 0x1000 ≤ addr.toNat →
      hostTurn (.read addr w) s = .next { s with resp := some .busError } ∧
      hostTurn (.write addr w v) s = .next { s with resp := some .busError })

/-- R108: an access the port refuses, for whatever reason, writes nothing, returns no data and sets no state of CORE:
the host gets an error response. That the machine goes on is the model's choice (log entry 7). -/
def Obligations.RefusedAccessSetsNoState : Prop :=
  ∀ (s : State) (a : Access) (f : Fault), portAccess a s = .fault f →
    hostTurn a s = .next { s with resp := some .busError }

/-- R103, R106: while IDLE an aligned write inside SRC stores the low bytes of the data little-endian and changes no
other SRC byte and no DST byte; the same access reads the value back, zero extended. That a narrow access moves the low
bits of the data and reads zero extended is the model's choice (log entry 11). -/
def Obligations.SrcWindowStoresLittleEndian : Prop :=
  ∀ (s : State) (w : Width) (off : Nat) (v : Word), s.params.wf = true → s.seq = .idle →
    off % widthBytes w = 0 → off + widthBytes w ≤ s.params.srcSize →
    ∃ t u, hostTurn (.write (BitVec.ofNat 32 (0x01000000 + off)) w v) s = .next t ∧ t.resp = some .done ∧
      (∀ k, k < widthBytes w → t.src.read (off + k) = v.extractLsb' (8 * k) 8) ∧
      (∀ a, (a < off ∨ off + widthBytes w ≤ a) → t.src.read a = s.src.read a) ∧
      t.dst = s.dst ∧
      hostTurn (.read (BitVec.ofNat 32 (0x01000000 + off)) w) t = .next u ∧
      u.resp = some (.data (BitVec.ofNat 32 (v.toNat % 2 ^ (8 * widthBytes w)))) ∧
      u.src = t.src ∧ u.dst = t.dst

/-- R103, R106: the same of the DST window. That a narrow access moves the low bits of the data and reads zero extended is
the model's choice (log entry 11). -/
def Obligations.DstWindowStoresLittleEndian : Prop :=
  ∀ (s : State) (w : Width) (off : Nat) (v : Word), s.params.wf = true → s.seq = .idle →
    off % widthBytes w = 0 → off + widthBytes w ≤ s.params.dstSize →
    ∃ t u, hostTurn (.write (BitVec.ofNat 32 (0x02000000 + off)) w v) s = .next t ∧ t.resp = some .done ∧
      (∀ k, k < widthBytes w → t.dst.read (off + k) = v.extractLsb' (8 * k) 8) ∧
      (∀ a, (a < off ∨ off + widthBytes w ≤ a) → t.dst.read a = s.dst.read a) ∧
      t.src = s.src ∧
      hostTurn (.read (BitVec.ofNat 32 (0x02000000 + off)) w) t = .next u ∧
      u.resp = some (.data (BitVec.ofNat 32 (v.toNat % 2 ^ (8 * widthBytes w)))) ∧
      u.src = t.src ∧ u.dst = t.dst

/-- R33, R34, R42, R43, R51, R52, R54, R285: while IDLE a write at the offset of a RW register stores the value masked to
the field's width and changes nothing else (the port answers that the write completed); the next read returns it. R38: a
write to CTRL whose write-action bit is 0 stores IRQ_EN and changes nothing else, in IDLE and in BUSY. -/
def Obligations.WritableRegistersReadBackMasked : Prop :=
  ∀ (s : State) (v : Word),
    (s.seq = .idle →
      hostTurn (.write 0x00000020#32 .word v) s = .next { s with srcOff := v, resp := some .done } ∧
      hostTurn (.write 0x00000024#32 .word v) s = .next { s with srcLen := v, resp := some .done } ∧
      hostTurn (.write 0x00000028#32 .word v) s = .next { s with dstOff := v, resp := some .done } ∧
      hostTurn (.write 0x0000002C#32 .word v) s = .next { s with frameLen := v, resp := some .done } ∧
      hostTurn (.write 0x00000050#32 .word v) s =
        .next { s with ftSel := v.extractLsb' 0 8, resp := some .done } ∧
      hostTurn (.write 0x00000058#32 .word v) s =
        .next { s with ctSel := v.extractLsb' 0 8, resp := some .done } ∧
      hostTurn (.write 0x00000080#32 .word v) s =
        .next { s with nodeSel := v.extractLsb' 0 9, resp := some .done }) ∧
    (v.getLsbD 1 = false →
      hostTurn (.write 0x00000010#32 .word v) s = .next { s with irqEn := v.getLsbD 0, resp := some .done }) ∧
    (∀ p ∈ [(0x00000010#32, 0x00000001#32), (0x00000020#32, 0xFFFFFFFF#32), (0x00000024#32, 0xFFFFFFFF#32),
        (0x00000028#32, 0xFFFFFFFF#32), (0x0000002C#32, 0xFFFFFFFF#32), (0x00000050#32, 0x000000FF#32),
        (0x00000058#32, 0x000000FF#32), (0x00000080#32, 0x000001FF#32)],
      s.seq = .idle → (p.1 = 0x00000010#32 → v.getLsbD 1 = false) →
      ∃ t, hostTurn (.write p.1 .word v) s = .next t ∧
        hostTurn (.read p.1 .word) t = .next { t with resp := some (.data (v &&& p.2)) })

/-- R34, R58: while IDLE a write to a read-only register or to a reserved offset (0x04C, 0x08C to 0xFFC) completes and
changes nothing; a reserved offset reads 0. -/
def Obligations.ReadOnlyAndReservedIgnoreWrites : Prop :=
  ∀ (s : State) (v : Word) (off : Nat), s.seq = .idle → off % 4 = 0 →
    (off ≤ 0x00C ∨ off = 0x01C ∨ (0x030 ≤ off ∧ off ≤ 0x04C) ∨ off = 0x054 ∨ (0x05C ≤ off ∧ off ≤ 0x07C) ∨
      (0x084 ≤ off ∧ off < 0x1000)) →
    hostTurn (.write (BitVec.ofNat 32 off) .word v) s = .next { s with resp := some .done } ∧
    (off = 0x04C ∨ 0x08C ≤ off →
      hostTurn (.read (BitVec.ofNat 32 off) .word) s = .next { s with resp := some (.data 0#32) })

/-- R56: while BUSY, in a state the invariant allows, a read of any register offset succeeds. STATUS reads BUSY 1, DONE 0,
ERR 0, ERR_CODE 0 and its reserved bits 0, its VALID bits being draws; the stable registers read what they hold and
reserved offsets 0; the others read a free value. Each read of a drawn register takes a fresh draw and changes nothing
else of CORE. The model's own choices: a drawn register is free in all 32 bits, reserved ones included (log
entry 8), and the numbering of the draws (log entry 4). -/
def Obligations.BusyReadsDrawOnlyWhatIsUnstable : Prop :=
  ∀ (s : State) (off : Nat), Coherent s → s.seq = .busy → off < 0x1000 → off % 4 = 0 →
    ∃ t d, hostTurn (.read (BitVec.ofNat 32 off) .word) s = .next t ∧ t.resp = some (.data d) ∧
      (off = 0x014 → d &&& 0xFFFFF8FF#32 = 0x00000001#32 ∧
        d &&& 0x00000700#32 = Config.freeWord s.draws &&& 0x00000700#32) ∧
      (off ∈ [0x000, 0x004, 0x008, 0x00C, 0x010, 0x018, 0x020, 0x024, 0x028, 0x02C, 0x04C, 0x050, 0x058, 0x080] ∨
          0x08C ≤ off → d = regValue (regAt off) s ∧ t = { s with resp := some (.data d) }) ∧
      (off = 0x04C ∨ 0x08C ≤ off → d = 0#32) ∧
      (off ∈ [0x014, 0x01C, 0x054, 0x084, 0x088] ∨ (0x030 ≤ off ∧ off ≤ 0x048) ∨ (0x05C ≤ off ∧ off ≤ 0x07C) →
        t = { s with draws := s.draws + 1, resp := some (.data d) } ∧ (off ≠ 0x014 → d = Config.freeWord s.draws))

/-- R109: no admitted host read while IDLE has a side effect: nothing changes but the answer the host gets. -/
def Obligations.IdleReadsHaveNoSideEffect : Prop :=
  ∀ (s t : State) (addr : Word) (w : Width), s.seq = .idle → portAccess (.read addr w) s = .next t →
    ∃ d, t = { s with resp := some (.data d) }

/-! ### Readback -/

/-- R33, R35 to R55: what a read of each register's offset returns. ID, VERSION, SRC_SIZE and DST_SIZE in every state; the
other registers while IDLE, those that mirror a table as the statements on readback say. STATUS (R39) bit by bit, with
the numbers of the error codes (R301). No read changes anything but the answer. -/
def Obligations.RegisterReadsShowTheState : Prop :=
  ∀ s : State,
    (∀ p ∈ [(0x00000000#32, 0x434D5052#32), (0x00000004#32, 0x00010000#32),
        (0x00000008#32, BitVec.ofNat 32 s.params.srcSize), (0x0000000C#32, BitVec.ofNat 32 s.params.dstSize)],
      hostTurn (.read p.1 .word) s = .next { s with resp := some (.data p.2) }) ∧
    (s.seq = .idle →
      (∀ p ∈ [(0x00000010#32, if s.irqEn then 1#32 else 0#32), (0x00000018#32, s.cmd), (0x0000001C#32, s.errInfo),
          (0x00000020#32, s.srcOff), (0x00000024#32, s.srcLen), (0x00000028#32, s.dstOff), (0x0000002C#32, s.frameLen),
          (0x00000030#32, s.results.outLen), (0x00000034#32, BitVec.ofNat 32 s.results.pad.toNat),
          (0x00000038#32, s.results.codeBits), (0x0000003C#32, s.results.tokens), (0x00000040#32, s.results.frames),
          (0x00000044#32, regValue .nsym s), (0x00000048#32, regValue .treeRoot s),
          (0x00000050#32, BitVec.ofNat 32 s.ftSel.toNat), (0x00000054#32, regValue .ftCount s),
          (0x00000058#32, BitVec.ofNat 32 s.ctSel.toNat), (0x0000005C#32, regValue .ctLen s),
          (0x00000080#32, BitVec.ofNat 32 s.nodeSel.toNat), (0x00000084#32, regValue .nodeFreq s),
          (0x00000088#32, regValue .nodeInfo s)],
        hostTurn (.read p.1 .word) s = .next { s with resp := some (.data p.2) }) ∧
      (∀ k : Fin 8, hostTurn (.read (BitVec.ofNat 32 (0x060 + 4 * k.val)) .word) s =
        .next { s with resp := some (.data (regValue (.ctCode k) s)) }) ∧
      ∃ v : Word, hostTurn (.read 0x00000014#32 .word) s = .next { s with resp := some (.data v) } ∧
        v.getLsbD 0 = false ∧ v.getLsbD 1 = s.done ∧ (v.getLsbD 2 = true ↔ s.errCode ≠ .none) ∧
        v.extractLsb' 3 5 = 0#5 ∧ v.getLsbD 8 = s.ftValid ∧ v.getLsbD 9 = s.treeValid ∧ v.getLsbD 10 = s.ctValid ∧
        v.extractLsb' 11 5 = 0#5 ∧ v.extractLsb' 24 8 = 0#8 ∧
        (s.errCode, v.extractLsb' 16 8) ∈ [(ErrCode.none, 0x00#8), (.illegalCmd, 0x01#8), (.noTable, 0x02#8),
          (.noTree, 0x03#8), (.noCodes, 0x04#8), (.srcRange, 0x05#8), (.emptyInput, 0x06#8), (.badLength, 0x07#8),
          (.missingCode, 0x08#8), (.dstOverflow, 0x09#8)])

/-- R51, R49, R285, R348: a write of FT_SEL while IDLE is seen by the next read: FT_COUNT returns the count of the
selected symbol, or 0 while FT is invalid; NSYM is the number of symbols with a non-zero count, or 0. -/
def Obligations.FrequencyReadback : Prop :=
  ∀ (s : State) (v : Word), s.seq = .idle →
    ∃ t u, hostTurn (.write (regAddr .ftSel) .word v) s = .next t ∧
      t = { s with ftSel := v.setWidth 8, resp := some .done } ∧
      hostTurn (.read (regAddr .ftCount) .word) t = .next u ∧
      u.resp = some (.data (if s.ftValid then freqOf s.ft (v.setWidth 8) else 0#32)) ∧
      (regValue .nsym s).toNat =
        if s.ftValid then ((List.range 256).countP (fun k => decide (freqOf s.ft (BitVec.ofNat 8 k) ≠ 0#32))) else 0

/-- R52, R53: with CT valid, bit 31 - j of CT_CODEk is code bit 32k + j of the selected symbol's code where the code has
one, and 0 elsewhere; CT_LEN is the length of that code (at most 255, R65); with CT invalid all read 0. -/
def Obligations.CodeReadback : Prop :=
  ∀ (s : State) (k : Fin 8) (j : Nat), j ≤ 31 →
    (s.ctValid = true →
      (regValue (.ctCode k) s).getLsbD (31 - j) = ((codeOf s.ct s.ctSel)[32 * k.val + j]?).getD false) ∧
    (s.ctValid = true → (codeOf s.ct s.ctSel).length ≤ 255 →
      (regValue .ctLen s).toNat = (codeOf s.ct s.ctSel).length) ∧
    (s.ctValid = false → regValue .ctLen s = 0#32 ∧ regValue (.ctCode k) s = 0#32)

/-- R54, R55: NODE_FREQ and NODE_INFO of an existing leaf, of an existing internal node, and of a node that does not
exist or while TREE_VALID = 0. R50: in a state the invariant allows, with TREE_VALID = 1, TREE_ROOT is 2n - 2 for the n
symbols of the table (0 for one leaf), the index of the last node; it is 0 while TREE_VALID = 0. -/
def Obligations.NodeReadback : Prop :=
  ∀ s : State,
    (∀ sym f, s.treeValid = true → s.nodes[s.nodeSel.toNat]? = some (.leaf sym f) →
      let v := regValue .nodeInfo s
      v.extractLsb' 0 9 = 0#9 ∧ v.extractLsb' 9 9 = 0#9 ∧ v.extractLsb' 18 8 = sym ∧ v.extractLsb' 26 4 = 0#4 ∧
      v.getLsbD 30 = true ∧ v.getLsbD 31 = true ∧ regValue .nodeFreq s = f) ∧
    (∀ l r f, s.treeValid = true → s.nodes[s.nodeSel.toNat]? = some (.internal l r f) →
      let v := regValue .nodeInfo s
      v.extractLsb' 0 9 = l ∧ v.extractLsb' 9 9 = r ∧ v.extractLsb' 18 8 = 0#8 ∧ v.extractLsb' 26 4 = 0#4 ∧
      v.getLsbD 30 = false ∧ v.getLsbD 31 = true ∧ regValue .nodeFreq s = f) ∧
    (s.treeValid = false ∨ s.nodes.length ≤ s.nodeSel.toNat →
      regValue .nodeInfo s = 0#32 ∧ regValue .nodeFreq s = 0#32) ∧
    (Coherent s → s.treeValid = true →
      let n := (List.range 256).countP (fun k => decide (freqOf s.ft (BitVec.ofNat 8 k) ≠ 0#32))
      1 ≤ n ∧ n ≤ 256 ∧ (regValue .treeRoot s).toNat = 2 * n - 2 ∧ s.nodes.length = 2 * n - 2 + 1) ∧
    (s.treeValid = false → regValue .treeRoot s = 0#32)

/-! ### The commands complete -/

/-- R17: the input a command reads is the SRC_LEN bytes of SRC from SRC_OFF up, in order. -/
def Obligations.InputIsTheAddressedBytes : Prop :=
  ∀ s : State, s.input.length = s.srcLen.toNat ∧
    ∀ i, i < s.srcLen.toNat → s.input[i]? = some (s.src.read (s.srcOff.toNat + i))

/-- R282, R281, R287: NOP always completes with the outcome (0, 0); the result registers, the tables, the VALID bits,
SRC and DST are unchanged. -/
def Obligations.NopOnlyRecordsItsCompletion : Prop :=
  ∀ s : State,
    exec .nop s = .next { s with errCode := .none, errInfo := 0#32, done := true, seq := .idle }

/-- R161, R160: FREQ_COUNT of a non-empty input inside SRC completes; FT[s] is the number of input positions that hold
s, for every s; FT_VALID is set, TREE_VALID and CT_VALID are cleared, the result registers are 0; nothing else changes.
-/
def Obligations.FreqCountCountsEverySymbol : Prop :=
  ∀ s : State, s.params.wf = true → s.srcOff.toNat + s.srcLen.toNat ≤ s.params.srcSize → 0 < s.srcLen.toNat →
    ∃ t, exec .freqCount s = .next t ∧ Recorded .none 0#32 t ∧
      t.ft.length = 256 ∧
      (∀ v : Byte, (freqOf t.ft v).toNat =
        (List.range s.srcLen.toNat).countP (fun i => decide (s.src.read (s.srcOff.toNat + i) = v))) ∧
      t.ftValid = true ∧ t.treeValid = false ∧ t.ctValid = false ∧ t.results = Results.zero ∧
      Untouched s t ∧ t.nodes = s.nodes ∧ t.ct = s.ct ∧ t.dst = s.dst

/-- R169, R165, R166, R167, R63: with FT_VALID = 1 and a table that counts something, TREE_BUILD completes and NODE is
the tree of R165: the leaves are the present symbols in ascending order, every later node merges the two waiting nodes
of least key (frequency, then index), the least one on the left, with the sum of their frequencies, and 2n - 1 nodes
exist. TREE_VALID is set, CT_VALID cleared, the result registers are 0; nothing else changes. -/
def Obligations.TreeBuildMergesTheLeastTwo : Prop :=
  ∀ s : State, s.ftValid = true → (∃ v, freqOf s.ft v ≠ 0#32) →
    ∃ t, exec .treeBuild s = .next t ∧ Recorded .none 0#32 t ∧
      (∃ syms, IsHuffmanTree s.ft syms t.nodes) ∧
      t.treeValid = true ∧ t.ctValid = false ∧ t.ftValid = true ∧ t.results = Results.zero ∧
      Untouched s t ∧ t.ft = s.ft ∧ t.ct = s.ct ∧ t.dst = s.dst

/-- R177, R175, R176: in a state the invariant allows, with TREE_VALID = 1, CODE_GEN completes; the code of a present
symbol is "0" if the tree is one leaf, else the branch bits of a path from the root to that symbol's leaf; an absent
symbol has no code. CT_VALID is set, the result registers are 0; nothing else changes. -/
def Obligations.CodeGenRecordsThePathToEachLeaf : Prop :=
  ∀ s : State, Coherent s → s.treeValid = true →
    ∃ t, exec .codeGen s = .next t ∧ Recorded .none 0#32 t ∧
      (∀ v, freqOf s.ft v = 0#32 → codeOf t.ct v = []) ∧
      (∀ v, freqOf s.ft v ≠ 0#32 →
        (s.nodes.length = 1 → codeOf t.ct v = [false]) ∧
        (s.nodes.length ≠ 1 → codeOf t.ct v ≠ [] ∧
          follow s.nodes (s.nodes.length - 1) (codeOf t.ct v) = some (.leaf v (freqOf s.ft v)))) ∧
      t.ctValid = true ∧ t.treeValid = true ∧ t.ftValid = s.ftValid ∧ t.results = Results.zero ∧
      Untouched s t ∧ t.ft = s.ft ∧ t.nodes = s.nodes ∧ t.dst = s.dst

/-- R182, R180, R140, R150: BIT_PACK with CT_VALID = 1, a non-empty input inside SRC, a code for every input byte and
room in DST completes; the bits of the N bytes written from DST_OFF up are the pad count's eight bits, the codes in
input order, then the pad zeros; every other DST byte is unchanged; the result registers are N, pad, L, 0, 0; no table
and no VALID bit changes. -/
def Obligations.BitPackWritesTheCodesInOrder : Prop :=
  ∀ s : State, s.ctValid = true → s.srcOff.toNat + s.srcLen.toNat ≤ s.params.srcSize → 0 < s.srcLen.toNat →
    (∀ b ∈ s.input, codeOf s.ct b ≠ []) →
    let bits := s.input.flatMap (codeOf s.ct)
    let pad := 8 - bits.length % 8
    let n := 1 + (bits.length + pad) / 8
    s.dstOff.toNat + n ≤ s.params.dstSize →
    ∃ t, exec .bitPack s = .next t ∧ Recorded .none 0#32 t ∧
      (t.dst.readBytes s.dstOff.toNat n).flatMap bin8 =
        bin8 (BitVec.ofNat 8 pad) ++ bits ++ List.replicate pad false ∧
      DstKeptOutside n s t ∧
      t.results = { outLen := BitVec.ofNat 32 n, pad := BitVec.ofNat 4 pad, codeBits := BitVec.ofNat 32 bits.length,
                    tokens := 0#32, frames := 0#32 } ∧
      Untouched s t ∧ SameTables s t

/-- R185, R140, R150: HUFF_ENCODE of a non-empty input inside SRC, with room in DST, completes; FT, NODE and CT are the
counts, the tree and the codes of the input, all three VALID bits are set; the bits written are the pad count's, the
codes in input order, the pad zeros; every other DST byte is unchanged; the result registers are N, pad, L, 0, 0. -/
def Obligations.HuffEncodeWritesTheComposedStream : Prop :=
  ∀ s : State, s.srcOff.toNat + s.srcLen.toNat ≤ s.params.srcSize → 0 < s.srcLen.toNat →
    let codes := gen (build (freq s.input))
    let bits := s.input.flatMap (codeOf codes)
    let pad := 8 - bits.length % 8
    let n := 1 + (bits.length + pad) / 8
    s.dstOff.toNat + n ≤ s.params.dstSize →
    ∃ t, exec .huffEncode s = .next t ∧ Recorded .none 0#32 t ∧
      t.ft = freq s.input ∧ t.nodes = build t.ft ∧ t.ct = gen t.nodes ∧
      t.ftValid = true ∧ t.treeValid = true ∧ t.ctValid = true ∧
      (t.dst.readBytes s.dstOff.toNat n).flatMap bin8 =
        bin8 (BitVec.ofNat 8 pad) ++ bits ++ List.replicate pad false ∧
      DstKeptOutside n s t ∧
      t.results = { outLen := BitVec.ofNat 32 n, pad := BitVec.ofNat 4 pad, codeBits := BitVec.ofNat 32 bits.length,
                    tokens := 0#32, frames := 0#32 } ∧
      Untouched s t

/-- R235, R230, R141, R150: for the token list R232 fixes (reconstruction, counts 1 to 255, maximality), RLE_IMAGE of a
non-empty input inside SRC with room for 2T bytes completes and writes value and count of each token in order; nothing
else of DST, no table and no VALID bit changes; the result registers are 2T, 0, 0, T, 0. -/
def Obligations.RleImageWritesValueCountPairs : Prop :=
  ∀ (s : State) (toks : List (Token Byte)),
    s.srcOff.toNat + s.srcLen.toNat ≤ s.params.srcSize → 0 < s.srcLen.toNat →
    EncodesRuns s.input toks → s.dstOff.toNat + 2 * toks.length ≤ s.params.dstSize →
    ∃ t, exec .rleImage s = .next t ∧ Recorded .none 0#32 t ∧
      (∀ k v c, toks[k]? = some (v, c) → outByte s t (2 * k) = v ∧ (outByte s t (2 * k + 1)).toNat = c) ∧
      DstKeptOutside (2 * toks.length) s t ∧
      t.results = { outLen := BitVec.ofNat 32 (2 * toks.length), pad := 0#4, codeBits := 0#32,
                    tokens := BitVec.ofNat 32 toks.length, frames := 0#32 } ∧
      Untouched s t ∧ SameTables s t

/-- R240, R142, R150: the same of RLE_AUDIO over the little-endian 16-bit samples of an input of even length: three
bytes per token, the value's low byte, its high byte, the count. -/
def Obligations.RleAudioWritesValueCountTriples : Prop :=
  ∀ (s : State) (smps : List (BitVec 16)) (toks : List (Token (BitVec 16))),
    s.srcOff.toNat + s.srcLen.toNat ≤ s.params.srcSize → 0 < s.srcLen.toNat → 2 * smps.length = s.srcLen.toNat →
    (∀ k w, smps[k]? = some w → w.toNat =
      (s.src.read (s.srcOff.toNat + 2 * k)).toNat + 256 * (s.src.read (s.srcOff.toNat + 2 * k + 1)).toNat) →
    EncodesRuns smps toks → s.dstOff.toNat + 3 * toks.length ≤ s.params.dstSize →
    ∃ t, exec .rleAudio s = .next t ∧ Recorded .none 0#32 t ∧
      (∀ k w c, toks[k]? = some (w, c) → outByte s t (3 * k) = w.extractLsb' 0 8 ∧
        outByte s t (3 * k + 1) = w.extractLsb' 8 8 ∧ (outByte s t (3 * k + 2)).toNat = c) ∧
      DstKeptOutside (3 * toks.length) s t ∧
      t.results = { outLen := BitVec.ofNat 32 (3 * toks.length), pad := 0#4, codeBits := 0#32,
                    tokens := BitVec.ofNat 32 toks.length, frames := 0#32 } ∧
      Untouched s t ∧ SameTables s t

/-- R245, R143, R150: RLE_VIDEO of a non-empty input inside SRC that F frames of FRAME_LEN bytes fill exactly, each
with the token list R232 fixes, with room in DST, completes and writes the segments in order: the frame's token count in
four bytes, the most significant first, then its value and count bytes. The result registers are 4F + 2T, 0, 0, T, F. -/
def Obligations.RleVideoWritesPrefixedSegments : Prop :=
  ∀ (s : State) (frs : List (List Byte)) (toks : List (List (Token Byte))),
    s.srcOff.toNat + s.srcLen.toNat ≤ s.params.srcSize → 0 < s.srcLen.toNat → 0 < s.frameLen.toNat →
    frs.flatten = s.input → (∀ fr ∈ frs, fr.length = s.frameLen.toNat) →
    List.Forall₂ EncodesRuns frs toks →
    let total := (toks.map List.length).sum
    let n := 4 * frs.length + 2 * total
    s.dstOff.toNat + n ≤ s.params.dstSize →
    ∃ t, exec .rleVideo s = .next t ∧ Recorded .none 0#32 t ∧
      t.dst.readBytes s.dstOff.toNat n =
        toks.flatMap (fun tk =>
          [BitVec.ofNat 8 (tk.length / 2 ^ 24), BitVec.ofNat 8 (tk.length / 2 ^ 16), BitVec.ofNat 8 (tk.length / 2 ^ 8),
            BitVec.ofNat 8 tk.length] ++ tk.flatMap (fun p => [p.1, BitVec.ofNat 8 p.2])) ∧
      DstKeptOutside n s t ∧
      t.results = { outLen := BitVec.ofNat 32 n, pad := 0#4, codeBits := 0#32,
                    tokens := BitVec.ofNat 32 total, frames := BitVec.ofNat 32 frs.length } ∧
      Untouched s t ∧ SameTables s t

/-! ### Errors -/

/-- R301, R304, R302: an input that runs past SRC ends each of the six commands that read SRC with SRC_RANGE (the sum is
not taken modulo 2^32), an empty input inside SRC with EMPTY_INPUT; BIT_PACK checks this after CT_VALID. Nothing but the
completion record and the zeroed result registers changes. -/
def Obligations.InputErrorsInOrder : Prop :=
  ∀ (i : Instr) (s : State), readsSrc i = true → (i = .bitPack → s.ctValid = true) →
    (s.params.srcSize < s.srcOff.toNat + s.srcLen.toNat →
      ∃ t, exec i s = .next t ∧ Recorded .srcRange 0#32 t ∧ t.results = Results.zero ∧
        Untouched s t ∧ SameTables s t ∧ t.dst = s.dst) ∧
    (s.srcOff.toNat + s.srcLen.toNat ≤ s.params.srcSize → s.srcLen = 0#32 →
      ∃ t, exec i s = .next t ∧ Recorded .emptyInput 0#32 t ∧ t.results = Results.zero ∧
        Untouched s t ∧ SameTables s t ∧ t.dst = s.dst)

/-- R301, R304, R347: TREE_BUILD without FT_VALID, CODE_GEN without TREE_VALID and BIT_PACK without CT_VALID end with
NO_TABLE, NO_TREE and NO_CODES, whatever the argument registers hold; nothing else changes but the zeroed result
registers. -/
def Obligations.UnitsTooEarlyReportTheMissingTable : Prop :=
  ∀ s : State,
    (s.ftValid = false → ∃ t, exec .treeBuild s = .next t ∧ Recorded .noTable 0#32 t ∧ t.results = Results.zero ∧
      Untouched s t ∧ SameTables s t ∧ t.dst = s.dst) ∧
    (s.treeValid = false → ∃ t, exec .codeGen s = .next t ∧ Recorded .noTree 0#32 t ∧ t.results = Results.zero ∧
      Untouched s t ∧ SameTables s t ∧ t.dst = s.dst) ∧
    (s.ctValid = false → ∃ t, exec .bitPack s = .next t ∧ Recorded .noCodes 0#32 t ∧ t.results = Results.zero ∧
      Untouched s t ∧ SameTables s t ∧ t.dst = s.dst)

/-- R301, R240, R245: with a non-empty input inside SRC, RLE_AUDIO with an odd SRC_LEN and RLE_VIDEO with a FRAME_LEN
that is 0 or does not divide SRC_LEN end with BAD_LENGTH; nothing else changes but the zeroed result registers. -/
def Obligations.BadLengthOfAudioAndVideo : Prop :=
  ∀ s : State, s.srcOff.toNat + s.srcLen.toNat ≤ s.params.srcSize → 0 < s.srcLen.toNat →
    (s.srcLen.toNat % 2 = 1 → ∃ t, exec .rleAudio s = .next t ∧ Recorded .badLength 0#32 t ∧
      t.results = Results.zero ∧ Untouched s t ∧ SameTables s t ∧ t.dst = s.dst) ∧
    (s.frameLen = 0#32 ∨ ¬ s.frameLen.toNat ∣ s.srcLen.toNat → ∃ t, exec .rleVideo s = .next t ∧
      Recorded .badLength 0#32 t ∧ t.results = Results.zero ∧ Untouched s t ∧ SameTables s t ∧ t.dst = s.dst)

/-- R182, R41, R301: BIT_PACK of an input with a byte that has no code ends with MISSING_CODE, ERR_INFO the position of
the first such byte, whether or not the output would fit; nothing else changes but the zeroed result registers. -/
def Obligations.MissingCodeNamesTheFirstPosition : Prop :=
  ∀ (s : State) (k : Nat), s.ctValid = true → s.srcOff.toNat + s.srcLen.toNat ≤ s.params.srcSize →
    k < s.srcLen.toNat → codeOf s.ct (s.src.read (s.srcOff.toNat + k)) = [] →
    (∀ j, j < k → codeOf s.ct (s.src.read (s.srcOff.toNat + j)) ≠ []) →
    ∃ t, exec .bitPack s = .next t ∧ Recorded .missingCode (BitVec.ofNat 32 k) t ∧ t.results = Results.zero ∧
      Untouched s t ∧ SameTables s t ∧ t.dst = s.dst

/-- R150, R287, R303, R305: when each of the five output-producing commands ends with DST_OVERFLOW, on a non-empty input
inside SRC that passes its other checks: when its N bytes do not fit behind DST_OFF (that it does not where they fit is
what the completion statements say). It then writes no byte at
all, and the result registers hold what success would have given (OUT_LEN the length that did not fit). The run-length
commands and BIT_PACK change no table; HUFF_ENCODE leaves the tables of its input, valid. -/
def Obligations.OverflowWritesNothingAndReportsTheLength : Prop :=
  ∀ s : State, s.srcOff.toNat + s.srcLen.toNat ≤ s.params.srcSize → 0 < s.srcLen.toNat →
    (∀ toks : List (Token Byte), EncodesRuns s.input toks →
      s.params.dstSize < s.dstOff.toNat + 2 * toks.length →
      ∃ t, exec .rleImage s = .next t ∧ SameTables s t ∧
        Overflowed { outLen := BitVec.ofNat 32 (2 * toks.length), pad := 0#4, codeBits := 0#32,
                     tokens := BitVec.ofNat 32 toks.length, frames := 0#32 } s t) ∧
    (∀ (smps : List (BitVec 16)) (toks : List (Token (BitVec 16))), 2 * smps.length = s.srcLen.toNat →
      (∀ k w, smps[k]? = some w → w.toNat =
        (s.src.read (s.srcOff.toNat + 2 * k)).toNat + 256 * (s.src.read (s.srcOff.toNat + 2 * k + 1)).toNat) →
      EncodesRuns smps toks → s.params.dstSize < s.dstOff.toNat + 3 * toks.length →
      ∃ t, exec .rleAudio s = .next t ∧ SameTables s t ∧
        Overflowed { outLen := BitVec.ofNat 32 (3 * toks.length), pad := 0#4, codeBits := 0#32,
                     tokens := BitVec.ofNat 32 toks.length, frames := 0#32 } s t) ∧
    (∀ (frs : List (List Byte)) (toks : List (List (Token Byte))), 0 < s.frameLen.toNat →
      frs.flatten = s.input → (∀ fr ∈ frs, fr.length = s.frameLen.toNat) → List.Forall₂ EncodesRuns frs toks →
      let total := (toks.map List.length).sum
      s.params.dstSize < s.dstOff.toNat + (4 * frs.length + 2 * total) →
      ∃ t, exec .rleVideo s = .next t ∧ SameTables s t ∧
        Overflowed { outLen := BitVec.ofNat 32 (4 * frs.length + 2 * total), pad := 0#4, codeBits := 0#32,
                     tokens := BitVec.ofNat 32 total, frames := BitVec.ofNat 32 frs.length } s t) ∧
    (s.ctValid = true → (∀ b ∈ s.input, codeOf s.ct b ≠ []) →
      let len := (s.input.flatMap (codeOf s.ct)).length
      let pad := 8 - len % 8
      s.params.dstSize < s.dstOff.toNat + (1 + (len + pad) / 8) →
      ∃ t, exec .bitPack s = .next t ∧ SameTables s t ∧
        Overflowed { outLen := BitVec.ofNat 32 (1 + (len + pad) / 8), pad := BitVec.ofNat 4 pad,
                     codeBits := BitVec.ofNat 32 len, tokens := 0#32, frames := 0#32 } s t) ∧
    (let len := (s.input.flatMap (codeOf (gen (build (freq s.input))))).length
      let pad := 8 - len % 8
      s.params.dstSize < s.dstOff.toNat + (1 + (len + pad) / 8) →
      ∃ t, exec .huffEncode s = .next t ∧
        t.ft = freq s.input ∧ t.nodes = build t.ft ∧ t.ct = gen t.nodes ∧
        t.ftValid = true ∧ t.treeValid = true ∧ t.ctValid = true ∧
        Overflowed { outLen := BitVec.ofNat 32 (1 + (len + pad) / 8), pad := BitVec.ofNat 4 pad,
                     codeBits := BitVec.ofNat 32 len, tokens := 0#32, frames := 0#32 } s t)

/-- R305, R303: the one imprecise case. HUFF_ENCODE whose output does not fit ends with DST_OVERFLOW with DST untouched
and the tables of the new input valid; BIT_PACK of the same input after DST_OFF is moved to where the output fits then
ends exactly as HUFF_ENCODE would have ended there: the same bytes, and the result registers the overflow had reported. -/
def Obligations.HuffOverflowKeepsTheTablesForBitPack : Prop :=
  ∀ (s t : State) (d : Word), Coherent s → exec .huffEncode s = .next t → t.errCode = .dstOverflow →
    d.toNat + t.results.outLen.toNat ≤ s.params.dstSize →
    t.dst = s.dst ∧ t.ftValid = true ∧ t.treeValid = true ∧ t.ctValid = true ∧
    t.ft = freq s.input ∧ t.nodes = build t.ft ∧ t.ct = gen t.nodes ∧
    ∃ u, exec .bitPack { t with dstOff := d } = .next u ∧ exec .huffEncode { s with dstOff := d } = .next u ∧
      u.errCode = .none ∧ u.results = t.results

/-- R303, R302: a completion with any error changes no SRC or DST byte and no argument register; unless it is
HUFF_ENCODE's DST_OVERFLOW it changes no table and no VALID bit; unless it is DST_OVERFLOW the result registers are 0;
ERR_INFO is 0 unless it is MISSING_CODE. -/
def Obligations.ErrorsArePrecise : Prop :=
  ∀ (i : Instr) (s t : State), exec i s = .next t → t.errCode ≠ .none →
    t.dst = s.dst ∧ Untouched s t ∧ t.done = true ∧ t.seq = .idle ∧
    ((i = .huffEncode → t.errCode ≠ .dstOverflow) → SameTables s t) ∧
    (t.errCode ≠ .dstOverflow → t.results = Results.zero) ∧
    (t.errCode ≠ .missingCode → t.errInfo = 0#32)

/-- R304: each command ends only with an outcome of its row: none for NOP; the listed errors for the others. -/
def Obligations.EachCommandRaisesOnlyItsErrors : Prop :=
  ∀ (i : Instr) (s t : State), exec i s = .next t → t.errCode = .none ∨ t.errCode ∈
    (match i with
     | .nop => []
     | .huffEncode => [.srcRange, .emptyInput, .dstOverflow]
     | .freqCount => [.srcRange, .emptyInput]
     | .treeBuild => [.noTable]
     | .codeGen => [.noTree]
     | .bitPack => [.noCodes, .srcRange, .emptyInput, .missingCode, .dstOverflow]
     | .rleImage => [.srcRange, .emptyInput, .dstOverflow]
     | .rleAudio => [.srcRange, .emptyInput, .badLength, .dstOverflow]
     | .rleVideo => [.srcRange, .emptyInput, .badLength, .dstOverflow] : List ErrCode)

/-! ### Frames -/

/-- R131, R235, R240, R245, R303: the frame of RLE_IMAGE, RLE_AUDIO and RLE_VIDEO, whatever the outcome. Every register
but STATUS, ERR_INFO and the five result registers, every table and VALID bit, and SRC are unchanged; on success every
DST byte outside the OUT_LEN bytes from DST_OFF up, on an error every DST byte, is unchanged. -/
def Obligations.RunLengthCommandsFrame : Prop :=
  ∀ (i : Instr) (s t : State), i = .rleImage ∨ i = .rleAudio ∨ i = .rleVideo → s.params.wf = true →
    exec i s = .next t →
    Untouched s t ∧ SameTables s t ∧
    (t.errCode = .none → DstKeptOutside t.results.outLen.toNat s t) ∧ (t.errCode ≠ .none → t.dst = s.dst)

/-- R131, R182, R185, R303: the frame of BIT_PACK and HUFF_ENCODE, whatever the outcome: as for the run-length commands,
but that HUFF_ENCODE writes the tables and the VALID bits unless it rejects its input. -/
def Obligations.PackingCommandsFrame : Prop :=
  ∀ (i : Instr) (s t : State), i = .bitPack ∨ i = .huffEncode → s.params.wf = true → exec i s = .next t →
    Untouched s t ∧
    (i = .bitPack ∨ t.errCode = .srcRange ∨ t.errCode = .emptyInput → SameTables s t) ∧
    (t.errCode = .none → DstKeptOutside t.results.outLen.toNat s t) ∧ (t.errCode ≠ .none → t.dst = s.dst)

/-- R131, R161, R169, R177, R282, R67: the frame of the commands that store nothing. No DST byte changes; NOP changes no
table; FREQ_COUNT changes neither NODE nor CT; TREE_BUILD neither FT, FT_VALID nor CT; CODE_GEN neither FT nor NODE nor
their VALID bits. -/
def Obligations.NonStoringCommandsFrame : Prop :=
  ∀ (i : Instr) (s t : State), i = .nop ∨ i = .freqCount ∨ i = .treeBuild ∨ i = .codeGen → exec i s = .next t →
    Untouched s t ∧ t.dst = s.dst ∧
    (i = .nop → SameTables s t ∧ t.results = s.results) ∧
    (i = .freqCount → t.nodes = s.nodes ∧ t.ct = s.ct) ∧
    (i = .treeBuild → t.ft = s.ft ∧ t.ftValid = s.ftValid ∧ t.ct = s.ct) ∧
    (i = .codeGen → t.ft = s.ft ∧ t.ftValid = s.ftValid ∧ t.nodes = s.nodes ∧ t.treeValid = s.treeValid)

/-! ### Properties of the algorithms -/

/-- R232, R230: the token list the tokenizer makes reconstructs the sequence, has counts 1 to 255 and maximal runs, for
sequences over any type with decidable equality, and no other list does; its length is the sum over the maximal runs of the run's length
over 255, rounded up. -/
def Obligations.TokenizerIsTheUniqueMaximalRunList : Prop :=
  ∀ (α : Type) [DecidableEq α] (seq : List α),
    (∀ toks : List (Token α), EncodesRuns seq toks ↔ toks = tokenize seq) ∧
    (tokenize seq).length = ((seq.splitBy (fun a b => decide (a = b))).map (fun r => (r.length + 254) / 255)).sum

/-- R186, R181, R140: after a successful HUFF_ENCODE or BIT_PACK, with the sizes of R8, PAD is 1 to 8, the packed bit
length is a multiple of 8 and 8 - PAD is CODE_BITS mod 8, and OUT_LEN is 1 + (CODE_BITS + PAD) / 8. -/
def Obligations.PadAccountsForTheLastByte : Prop :=
  ∀ (i : Instr) (s t : State), i = .huffEncode ∨ i = .bitPack → s.params.wf = true → exec i s = .next t →
    t.errCode = .none →
    1 ≤ t.results.pad.toNat ∧ t.results.pad.toNat ≤ 8 ∧
    (8 + t.results.codeBits.toNat + t.results.pad.toNat) % 8 = 0 ∧
    8 - t.results.pad.toNat = t.results.codeBits.toNat % 8 ∧
    t.results.outLen.toNat = 1 + (t.results.codeBits.toNat + t.results.pad.toNat) / 8

/-- R170, R62: in a state the invariant allows, a valid tree's root has the total of FT as its frequency, every internal
node's frequency is the exact sum of its children's, and each node but the root is a child of exactly one node. -/
def Obligations.TreeCountsAreExactAndOwned : Prop :=
  ∀ s : State, Coherent s → s.treeValid = true →
    (freqAt s.nodes (s.nodes.length - 1)).toNat = (s.ft.map BitVec.toNat).sum ∧
    (∀ k l r f, s.nodes[k]? = some (Node.internal l r f) →
      f.toNat = (freqAt s.nodes l.toNat).toNat + (freqAt s.nodes r.toNat).toNat ∧ l.toNat < k ∧ r.toNat < k) ∧
    (∀ j, j + 1 < s.nodes.length → ∃ k, IsChild s.nodes k j ∧ ∀ m, IsChild s.nodes m j → m = k)

/-- R178: in a state the invariant allows, no two symbols' codes collide or prefix one another. -/
def Obligations.CodesArePrefixFree : Prop :=
  ∀ (s : State) (u v : Byte), Coherent s → s.ctValid = true → codeOf s.ct u ≠ [] → codeOf s.ct v ≠ [] → u ≠ v →
    ¬ (codeOf s.ct u) <+: (codeOf s.ct v)

/-- R178: in a state the invariant allows, with at least two symbols in the table, the code lengths l_s of the symbols
in the tree satisfy: the sum of 2^(-l_s) is 1 (stated with every term multiplied by 2^255). The tree is full. -/
def Obligations.CodeLengthsFillTheTree : Prop :=
  ∀ s : State, Coherent s → s.ctValid = true → 2 ≤ (presentSymbols s.ft).length →
    ((presentSymbols s.ft).map (fun v => 2 ^ (255 - (codeOf s.ct v).length))).sum = 2 ^ 255

/-- R66, R65, R178: in a state the invariant allows, with CT_VALID = 1 exactly the symbols with a non-zero count have a
code; a code has at most n - 1 bits for n >= 2 symbols, so at most 255. -/
def Obligations.ExactlyTheCountedSymbolsHaveCodes : Prop :=
  ∀ (s : State) (v : Byte), Coherent s → s.ctValid = true →
    (codeOf s.ct v ≠ [] ↔ freqOf s.ft v ≠ 0#32) ∧
    (codeOf s.ct v).length ≤ 255 ∧
    (2 ≤ (presentSymbols s.ft).length → (codeOf s.ct v).length ≤ (presentSymbols s.ft).length - 1)

/-- R185: the composed encode never depends on FT, NODE or CT as they stood before: with other tables and VALID bits, on
an input it does not reject, it ends in the very same state. -/
def Obligations.HuffEncodeIgnoresEarlierTables : Prop :=
  ∀ (s : State) (ft : List Word) (nodes : List Node) (ct : List BitString) (a b c : Bool),
    s.srcOff.toNat + s.srcLen.toNat ≤ s.params.srcSize → 0 < s.srcLen.toNat →
    exec .huffEncode { s with ft := ft, nodes := nodes, ct := ct, ftValid := a, treeValid := b, ctValid := c } =
      exec .huffEncode s

/-- R185, R1, D13: HUFF_ENCODE is the chain of its units. On a non-empty input inside SRC, running FREQ_COUNT,
TREE_BUILD, CODE_GEN and BIT_PACK one after the other ends in exactly the state HUFF_ENCODE ends in, whether or not the
output fits. So MISSING_CODE cannot occur. -/
def Obligations.HuffEncodeEqualsTheChainOfUnits : Prop :=
  ∀ s : State, s.params.wf = true → s.srcOff.toNat + s.srcLen.toNat ≤ s.params.srcSize → 0 < s.srcLen.toNat →
    ∃ s1 s2 s3 s4, exec .freqCount s = .next s1 ∧ exec .treeBuild s1 = .next s2 ∧ exec .codeGen s2 = .next s3 ∧
      exec .bitPack s3 = .next s4 ∧ exec .huffEncode s = .next s4

/-- R246: running RLE_VIDEO once on all frames writes the same bytes as running it on the first `a` bytes (whole
frames) and then on the rest with DST_OFF advanced by the first OUT_LEN; DST ends up reading the same. -/
def Obligations.VideoSegmentsCompose : Prop :=
  ∀ (s t : State) (a : Nat), s.params.wf = true → exec .rleVideo s = .next t → t.errCode = .none →
    0 < a → a < s.srcLen.toNat → s.frameLen.toNat ∣ a →
    ∃ t1 t2, exec .rleVideo { s with srcLen := BitVec.ofNat 32 a } = .next t1 ∧ t1.errCode = .none ∧
      exec .rleVideo { t1 with
        srcOff := BitVec.ofNat 32 (s.srcOff.toNat + a)
        srcLen := BitVec.ofNat 32 (s.srcLen.toNat - a)
        dstOff := BitVec.ofNat 32 (s.dstOff.toNat + t1.results.outLen.toNat) } = .next t2 ∧ t2.errCode = .none ∧
      (∀ j, t2.dst.read j = t.dst.read j) ∧
      t1.results.outLen.toNat + t2.results.outLen.toNat = t.results.outLen.toNat ∧
      t1.results.frames.toNat + t2.results.frames.toNat = t.results.frames.toNat ∧
      t1.results.tokens.toNat + t2.results.tokens.toNat = t.results.tokens.toNat
end

