-- ==== Sys2Proof/Laws/Memory.lean ====
section
/-! SUPPORT. The laws of byte memories: a read after a write, runs of bytes, the draws after an abort, and that every
memory operation keeps the canonical form. -/

namespace Sys2Proof.Machine

/-! ### Single bytes -/

theorem lookup_insertCell_same (a : Nat) (b : Byte) (l : List Host.Cell) : (insertCell a b l).lookup a = some b := by
  induction l with
  | nil => simp [insertCell]
  | cons c l ih =>
    obtain ⟨x, y⟩ := c
    unfold insertCell
    split
    · simp
    · split
      · simp
      · have h : (a == x) = false := by simpa using ‹¬ a = x›
        simpa [List.lookup, h] using ih

theorem lookup_insertCell_other {a c : Nat} (h : c ≠ a) (b : Byte) (l : List Host.Cell) :
    (insertCell a b l).lookup c = l.lookup c := by
  have hca : (c == a) = false := by simpa using h
  induction l with
  | nil => simp [insertCell, List.lookup, hca]
  | cons d l ih =>
    obtain ⟨x, y⟩ := d
    unfold insertCell
    split
    · simp [List.lookup, hca]
    · split
      · subst x
        simp [List.lookup, hca]
      · simp [List.lookup, ih]

@[simp] theorem Memory.drawAt_write (m : Memory) (a c : Nat) (b : Byte) : (m.write a b).drawAt c = m.drawAt c := rfl

@[simp] theorem Memory.read_write_same (m : Memory) (a : Nat) (b : Byte) : (m.write a b).read a = b := by
  simp [Memory.read, Memory.stored, Memory.write, lookup_insertCell_same]

theorem Memory.read_write_other (m : Memory) {a c : Nat} (h : c ≠ a) (b : Byte) :
    (m.write a b).read c = m.read c := by
  simp [Memory.read, Memory.stored, Memory.unwritten, Memory.drawAt, Memory.write, lookup_insertCell_other h]

/-! ### Runs of bytes -/

/-- Outside the written run every byte reads as before. -/
theorem Memory.read_writeBytes_outside (bs : List Byte) :
    ∀ (m : Memory) (a c : Nat), (c < a ∨ a + bs.length ≤ c) → (m.writeBytes a bs).read c = m.read c := by
  induction bs with
  | nil => intro m a c _; rfl
  | cons b bs ih =>
    intro m a c h
    simp only [List.length_cons] at h
    rw [Memory.writeBytes, ih _ _ _ (by omega), Memory.read_write_other _ (by omega)]

/-- Inside the written run byte `j` is the one written. -/
theorem Memory.read_writeBytes_inside (bs : List Byte) :
    ∀ (m : Memory) (a j : Nat) (h : j < bs.length), (m.writeBytes a bs).read (a + j) = bs[j] := by
  induction bs with
  | nil => intro m a j h; simp at h
  | cons b bs ih =>
    intro m a j h
    rw [Memory.writeBytes]
    cases j with
    | zero => simp [Memory.read_writeBytes_outside bs (m.write a b) (a + 1) a (by omega)]
    | succ j =>
      have := ih (m.write a b) (a + 1) j (by simpa using h)
      simpa [Nat.add_assoc, Nat.add_comm 1 j] using this

@[simp] theorem Memory.readBytes_length (m : Memory) (a k : Nat) : (m.readBytes a k).length = k := by
  induction k generalizing a with
  | zero => rfl
  | succ k ih => simp [Memory.readBytes, ih]

theorem Memory.readBytes_getElem (m : Memory) (k : Nat) :
    ∀ (a i : Nat) (h : i < (m.readBytes a k).length), (m.readBytes a k)[i] = m.read (a + i) := by
  induction k with
  | zero => intro a i h; simp [Memory.readBytes] at h
  | succ k ih =>
    intro a i h
    cases i with
    | zero => simp [Memory.readBytes]
    | succ i =>
      simp only [Memory.readBytes, List.getElem_cons_succ]
      rw [ih]
      congr 1
      omega

/-- Reading the run just written gives it back. -/
theorem Memory.readBytes_writeBytes (m : Memory) (a : Nat) (bs : List Byte) :
    (m.writeBytes a bs).readBytes a bs.length = bs := by
  apply List.ext_getElem (by simp)
  intro i h₁ h₂
  rw [Memory.readBytes_getElem, Memory.read_writeBytes_inside _ _ _ _ h₂]

/-- Memories that read alike over a run have the same bytes there. -/
theorem Memory.readBytes_congr {m m' : Memory} (k : Nat) :
    ∀ a, (∀ i, i < k → m.read (a + i) = m'.read (a + i)) → m.readBytes a k = m'.readBytes a k := by
  induction k with
  | zero => intro a _; rfl
  | succ k ih =>
    intro a h
    rw [Memory.readBytes, Memory.readBytes, ih (a + 1) fun i hi => by
      have := h (i + 1) (by omega)
      rwa [show a + 1 + i = a + (i + 1) by omega]]
    have := h 0 (by omega)
    simp at this
    rw [this]

/-! ### Draws -/

theorem lookup_filter_ge {d a : Nat} (h : d ≤ a) (l : List Host.Cell) :
    (l.filter (fun c => decide (c.1 < d))).lookup a = none := by
  induction l with
  | nil => rfl
  | cons c l ih =>
    obtain ⟨x, y⟩ := c
    by_cases hx : x < d
    · have hax : (a == x) = false := by simp; omega
      simp [List.filter, hx, List.lookup, hax, ih]
    · simp [List.filter, hx, ih]

theorem lookup_filter_lt {d a : Nat} (h : a < d) (l : List Host.Cell) :
    (l.filter (fun c => decide (c.1 < d))).lookup a = l.lookup a := by
  induction l with
  | nil => rfl
  | cons c l ih =>
    obtain ⟨x, y⟩ := c
    by_cases hx : x < d
    · simp [List.filter, hx, List.lookup, ih]
    · have hax : (a == x) = false := by simp; omega
      simp [List.filter, hx, List.lookup, hax, ih]

theorem find?_filter_span {d a : Nat} (h : a < d) (l : List (Nat × Nat)) :
    (l.filter (fun p => decide (p.1 < d))).find? (fun p => decide (p.1 ≤ a)) =
      l.find? (fun p => decide (p.1 ≤ a)) := by
  induction l with
  | nil => rfl
  | cons p l ih =>
    by_cases hp : p.1 < d
    · simp [List.filter, hp, List.find?, ih]
    · have hpa : ¬ p.1 ≤ a := by omega
      simp [List.filter, hp, List.find?, hpa, ih]

/-- After an abort every byte from the offset up is a draw (R343). -/
theorem Memory.read_scramble_above (m : Memory) {d a : Nat} (n : Nat) (h : d ≤ a) :
    (m.scramble d n).read a = Config.freeByte n a := by
  simp [Memory.read, Memory.stored, Memory.scramble, lookup_filter_ge h, Memory.unwritten, Memory.drawAt, h]

/-- After an abort every byte below the offset reads as before (R343). -/
theorem Memory.read_scramble_below (m : Memory) {d a : Nat} (n : Nat) (h : a < d) :
    (m.scramble d n).read a = m.read a := by
  have hd : ¬ d ≤ a := by omega
  simp [Memory.read, Memory.stored, Memory.scramble, lookup_filter_lt h, Memory.unwritten, Memory.drawAt, hd,
    find?_filter_span h]

/-! ### The canonical form -/

theorem mem_insertCell {a : Nat} {b : Byte} {l : List Host.Cell} {c : Host.Cell} (h : c ∈ insertCell a b l) :
    c = (a, b) ∨ c ∈ l := by
  induction l with
  | nil => simpa [insertCell] using h
  | cons d l ih =>
    obtain ⟨x, y⟩ := d
    unfold insertCell at h
    split at h
    · simpa using h
    · split at h
      · simp only [List.mem_cons] at h ⊢
        tauto
      · simp only [List.mem_cons] at h ⊢
        rcases h with h | h
        · exact .inr (.inl h)
        · exact (ih h).imp id .inr

theorem insertCell_rising (a : Nat) (b : Byte) {l : List Host.Cell} (h : (l.map Prod.fst).Pairwise (· < ·)) :
    ((insertCell a b l).map Prod.fst).Pairwise (· < ·) := by
  induction l with
  | nil => simp [insertCell]
  | cons d l ih =>
    obtain ⟨x, y⟩ := d
    simp only [List.map_cons, List.pairwise_cons] at h
    obtain ⟨hx, hl⟩ := h
    unfold insertCell
    split
    · simp only [List.map_cons, List.pairwise_cons, List.mem_cons]
      refine ⟨?_, hx, hl⟩
      rintro z (rfl | hz)
      · assumption
      · exact lt_trans ‹a < x› (hx z hz)
    · split
      · subst x
        simpa [List.pairwise_cons] using ⟨by simpa using hx, hl⟩
      · simp only [List.map_cons, List.pairwise_cons]
        refine ⟨?_, ih hl⟩
        intro z hz
        obtain ⟨c, hc, rfl⟩ := List.mem_map.mp hz
        rcases mem_insertCell hc with rfl | hc
        · show x < a
          omega
        · exact hx _ (List.mem_map_of_mem hc)

theorem Memory.write_wf {m : Memory} (h : m.wf) (a : Nat) (b : Byte) : (m.write a b).wf :=
  ⟨insertCell_rising a b h.1, h.2⟩

theorem Memory.writeBytes_wf (bs : List Byte) : ∀ {m : Memory} (_ : m.wf) (a : Nat), (m.writeBytes a bs).wf := by
  induction bs with
  | nil => intro m h a; exact h
  | cons b bs ih => intro m h a; exact ih (Memory.write_wf h a b) (a + 1)

theorem Memory.scramble_wf {m : Memory} (h : m.wf) (d n : Nat) : (m.scramble d n).wf := by
  refine ⟨?_, ?_⟩
  · exact List.Pairwise.sublist (List.Sublist.map _ List.filter_sublist) h.1
  · simp only [Memory.scramble, List.map_cons, List.pairwise_cons]
    refine ⟨?_, List.Pairwise.sublist (List.Sublist.map _ List.filter_sublist) h.2⟩
    intro z hz
    obtain ⟨p, hp, rfl⟩ := List.mem_map.mp hz
    simpa using (List.mem_filter.mp hp).2

theorem Memory.empty_wf (n : Nat) : Memory.wf { cells := [], spans := [], base := n } := by
  simp [Memory.wf]

theorem State.powerOn_memories_wf (p : Params) (n : Nat) :
    (State.powerOn p n).src.wf ∧ (State.powerOn p n).dst.wf :=
  ⟨Memory.empty_wf _, Memory.empty_wf _⟩

/-- The memories of the state after reset are in canonical form. -/
theorem State.reset_memories_wf : State.reset.src.wf ∧ State.reset.dst.wf := State.powerOn_memories_wf _ _

theorem Memory.write_within {m : Memory} {size a : Nat} (h : m.within size) (ha : a < size) (b : Byte) :
    (m.write a b).within size := by
  intro c hc
  rcases mem_insertCell hc with rfl | hc
  · exact ha
  · exact h c hc

theorem Memory.writeBytes_within (bs : List Byte) {size : Nat} :
    ∀ {m : Memory} {a : Nat}, m.within size → a + bs.length ≤ size → (m.writeBytes a bs).within size := by
  induction bs with
  | nil => intro m a h _; exact h
  | cons b bs ih =>
    intro m a h ha
    simp only [List.length_cons] at ha
    exact ih (Memory.write_within h (by omega) b) (by omega)

theorem Memory.scramble_within {m : Memory} {size : Nat} (h : m.within size) (d n : Nat) :
    (m.scramble d n).within size := fun c hc => h c (List.mem_filter.mp hc).1

@[simp] theorem Memory.writeBytes_spans (bs : List Byte) :
    ∀ (m : Memory) (a : Nat), (m.writeBytes a bs).spans = m.spans := by
  induction bs with
  | nil => intro m a; rfl
  | cons b bs ih => intro m a; rw [Memory.writeBytes, ih]; rfl

@[simp] theorem Memory.writeBytes_base (bs : List Byte) :
    ∀ (m : Memory) (a : Nat), (m.writeBytes a bs).base = m.base := by
  induction bs with
  | nil => intro m a; rfl
  | cons b bs ih => intro m a; rw [Memory.writeBytes, ih]; rfl

end Sys2Proof.Machine
end

