-- ==== Sys2Proof/Laws/State.lean ====
section
/-! SUPPORT. One lemma per field per update of the state, so that no proof unfolds a record update. -/

namespace Sys2Proof.Machine

/-! ### setInbox: the schedule -/

@[simp] theorem State.setInbox_params (rest : List Event) (s : State) : (s.setInbox rest).params = s.params := rfl
@[simp] theorem State.setInbox_seq (rest : List Event) (s : State) : (s.setInbox rest).seq = s.seq := rfl
@[simp] theorem State.setInbox_irqEn (rest : List Event) (s : State) : (s.setInbox rest).irqEn = s.irqEn := rfl
@[simp] theorem State.setInbox_done (rest : List Event) (s : State) : (s.setInbox rest).done = s.done := rfl
@[simp] theorem State.setInbox_errCode (rest : List Event) (s : State) : (s.setInbox rest).errCode = s.errCode := rfl
@[simp] theorem State.setInbox_ftValid (rest : List Event) (s : State) : (s.setInbox rest).ftValid = s.ftValid := rfl
@[simp] theorem State.setInbox_treeValid (rest : List Event) (s : State) : (s.setInbox rest).treeValid = s.treeValid := rfl
@[simp] theorem State.setInbox_ctValid (rest : List Event) (s : State) : (s.setInbox rest).ctValid = s.ctValid := rfl
@[simp] theorem State.setInbox_cmd (rest : List Event) (s : State) : (s.setInbox rest).cmd = s.cmd := rfl
@[simp] theorem State.setInbox_errInfo (rest : List Event) (s : State) : (s.setInbox rest).errInfo = s.errInfo := rfl
@[simp] theorem State.setInbox_srcOff (rest : List Event) (s : State) : (s.setInbox rest).srcOff = s.srcOff := rfl
@[simp] theorem State.setInbox_srcLen (rest : List Event) (s : State) : (s.setInbox rest).srcLen = s.srcLen := rfl
@[simp] theorem State.setInbox_dstOff (rest : List Event) (s : State) : (s.setInbox rest).dstOff = s.dstOff := rfl
@[simp] theorem State.setInbox_frameLen (rest : List Event) (s : State) : (s.setInbox rest).frameLen = s.frameLen := rfl
@[simp] theorem State.setInbox_results (rest : List Event) (s : State) : (s.setInbox rest).results = s.results := rfl
@[simp] theorem State.setInbox_ftSel (rest : List Event) (s : State) : (s.setInbox rest).ftSel = s.ftSel := rfl
@[simp] theorem State.setInbox_ctSel (rest : List Event) (s : State) : (s.setInbox rest).ctSel = s.ctSel := rfl
@[simp] theorem State.setInbox_nodeSel (rest : List Event) (s : State) : (s.setInbox rest).nodeSel = s.nodeSel := rfl
@[simp] theorem State.setInbox_ft (rest : List Event) (s : State) : (s.setInbox rest).ft = s.ft := rfl
@[simp] theorem State.setInbox_nodes (rest : List Event) (s : State) : (s.setInbox rest).nodes = s.nodes := rfl
@[simp] theorem State.setInbox_ct (rest : List Event) (s : State) : (s.setInbox rest).ct = s.ct := rfl
@[simp] theorem State.setInbox_src (rest : List Event) (s : State) : (s.setInbox rest).src = s.src := rfl
@[simp] theorem State.setInbox_dst (rest : List Event) (s : State) : (s.setInbox rest).dst = s.dst := rfl
@[simp] theorem State.setInbox_draws (rest : List Event) (s : State) : (s.setInbox rest).draws = s.draws := rfl
@[simp] theorem State.setInbox_inbox (rest : List Event) (s : State) : (s.setInbox rest).inbox = rest := rfl
@[simp] theorem State.setInbox_resp (rest : List Event) (s : State) : (s.setInbox rest).resp = s.resp := rfl

/-! ### respond: the port's answer -/

@[simp] theorem State.respond_params (r : Response) (s : State) : (s.respond r).params = s.params := rfl
@[simp] theorem State.respond_seq (r : Response) (s : State) : (s.respond r).seq = s.seq := rfl
@[simp] theorem State.respond_irqEn (r : Response) (s : State) : (s.respond r).irqEn = s.irqEn := rfl
@[simp] theorem State.respond_done (r : Response) (s : State) : (s.respond r).done = s.done := rfl
@[simp] theorem State.respond_errCode (r : Response) (s : State) : (s.respond r).errCode = s.errCode := rfl
@[simp] theorem State.respond_ftValid (r : Response) (s : State) : (s.respond r).ftValid = s.ftValid := rfl
@[simp] theorem State.respond_treeValid (r : Response) (s : State) : (s.respond r).treeValid = s.treeValid := rfl
@[simp] theorem State.respond_ctValid (r : Response) (s : State) : (s.respond r).ctValid = s.ctValid := rfl
@[simp] theorem State.respond_cmd (r : Response) (s : State) : (s.respond r).cmd = s.cmd := rfl
@[simp] theorem State.respond_errInfo (r : Response) (s : State) : (s.respond r).errInfo = s.errInfo := rfl
@[simp] theorem State.respond_srcOff (r : Response) (s : State) : (s.respond r).srcOff = s.srcOff := rfl
@[simp] theorem State.respond_srcLen (r : Response) (s : State) : (s.respond r).srcLen = s.srcLen := rfl
@[simp] theorem State.respond_dstOff (r : Response) (s : State) : (s.respond r).dstOff = s.dstOff := rfl
@[simp] theorem State.respond_frameLen (r : Response) (s : State) : (s.respond r).frameLen = s.frameLen := rfl
@[simp] theorem State.respond_results (r : Response) (s : State) : (s.respond r).results = s.results := rfl
@[simp] theorem State.respond_ftSel (r : Response) (s : State) : (s.respond r).ftSel = s.ftSel := rfl
@[simp] theorem State.respond_ctSel (r : Response) (s : State) : (s.respond r).ctSel = s.ctSel := rfl
@[simp] theorem State.respond_nodeSel (r : Response) (s : State) : (s.respond r).nodeSel = s.nodeSel := rfl
@[simp] theorem State.respond_ft (r : Response) (s : State) : (s.respond r).ft = s.ft := rfl
@[simp] theorem State.respond_nodes (r : Response) (s : State) : (s.respond r).nodes = s.nodes := rfl
@[simp] theorem State.respond_ct (r : Response) (s : State) : (s.respond r).ct = s.ct := rfl
@[simp] theorem State.respond_src (r : Response) (s : State) : (s.respond r).src = s.src := rfl
@[simp] theorem State.respond_dst (r : Response) (s : State) : (s.respond r).dst = s.dst := rfl
@[simp] theorem State.respond_draws (r : Response) (s : State) : (s.respond r).draws = s.draws := rfl
@[simp] theorem State.respond_inbox (r : Response) (s : State) : (s.respond r).inbox = s.inbox := rfl
@[simp] theorem State.respond_resp (r : Response) (s : State) : (s.respond r).resp = some r := rfl

/-! ### takeDraw: the draw counter -/

@[simp] theorem State.takeDraw_params (s : State) : (s.takeDraw).params = s.params := rfl
@[simp] theorem State.takeDraw_seq (s : State) : (s.takeDraw).seq = s.seq := rfl
@[simp] theorem State.takeDraw_irqEn (s : State) : (s.takeDraw).irqEn = s.irqEn := rfl
@[simp] theorem State.takeDraw_done (s : State) : (s.takeDraw).done = s.done := rfl
@[simp] theorem State.takeDraw_errCode (s : State) : (s.takeDraw).errCode = s.errCode := rfl
@[simp] theorem State.takeDraw_ftValid (s : State) : (s.takeDraw).ftValid = s.ftValid := rfl
@[simp] theorem State.takeDraw_treeValid (s : State) : (s.takeDraw).treeValid = s.treeValid := rfl
@[simp] theorem State.takeDraw_ctValid (s : State) : (s.takeDraw).ctValid = s.ctValid := rfl
@[simp] theorem State.takeDraw_cmd (s : State) : (s.takeDraw).cmd = s.cmd := rfl
@[simp] theorem State.takeDraw_errInfo (s : State) : (s.takeDraw).errInfo = s.errInfo := rfl
@[simp] theorem State.takeDraw_srcOff (s : State) : (s.takeDraw).srcOff = s.srcOff := rfl
@[simp] theorem State.takeDraw_srcLen (s : State) : (s.takeDraw).srcLen = s.srcLen := rfl
@[simp] theorem State.takeDraw_dstOff (s : State) : (s.takeDraw).dstOff = s.dstOff := rfl
@[simp] theorem State.takeDraw_frameLen (s : State) : (s.takeDraw).frameLen = s.frameLen := rfl
@[simp] theorem State.takeDraw_results (s : State) : (s.takeDraw).results = s.results := rfl
@[simp] theorem State.takeDraw_ftSel (s : State) : (s.takeDraw).ftSel = s.ftSel := rfl
@[simp] theorem State.takeDraw_ctSel (s : State) : (s.takeDraw).ctSel = s.ctSel := rfl
@[simp] theorem State.takeDraw_nodeSel (s : State) : (s.takeDraw).nodeSel = s.nodeSel := rfl
@[simp] theorem State.takeDraw_ft (s : State) : (s.takeDraw).ft = s.ft := rfl
@[simp] theorem State.takeDraw_nodes (s : State) : (s.takeDraw).nodes = s.nodes := rfl
@[simp] theorem State.takeDraw_ct (s : State) : (s.takeDraw).ct = s.ct := rfl
@[simp] theorem State.takeDraw_src (s : State) : (s.takeDraw).src = s.src := rfl
@[simp] theorem State.takeDraw_dst (s : State) : (s.takeDraw).dst = s.dst := rfl
@[simp] theorem State.takeDraw_draws (s : State) : (s.takeDraw).draws = s.draws + 1 := rfl
@[simp] theorem State.takeDraw_inbox (s : State) : (s.takeDraw).inbox = s.inbox := rfl
@[simp] theorem State.takeDraw_resp (s : State) : (s.takeDraw).resp = s.resp := rfl

/-! ### putFreq: FT -/

@[simp] theorem State.putFreq_params (table : List Word) (s : State) : (s.putFreq table).params = s.params := rfl
@[simp] theorem State.putFreq_seq (table : List Word) (s : State) : (s.putFreq table).seq = s.seq := rfl
@[simp] theorem State.putFreq_irqEn (table : List Word) (s : State) : (s.putFreq table).irqEn = s.irqEn := rfl
@[simp] theorem State.putFreq_done (table : List Word) (s : State) : (s.putFreq table).done = s.done := rfl
@[simp] theorem State.putFreq_errCode (table : List Word) (s : State) : (s.putFreq table).errCode = s.errCode := rfl
@[simp] theorem State.putFreq_ftValid (table : List Word) (s : State) : (s.putFreq table).ftValid = true := rfl
@[simp] theorem State.putFreq_treeValid (table : List Word) (s : State) : (s.putFreq table).treeValid = false := rfl
@[simp] theorem State.putFreq_ctValid (table : List Word) (s : State) : (s.putFreq table).ctValid = false := rfl
@[simp] theorem State.putFreq_cmd (table : List Word) (s : State) : (s.putFreq table).cmd = s.cmd := rfl
@[simp] theorem State.putFreq_errInfo (table : List Word) (s : State) : (s.putFreq table).errInfo = s.errInfo := rfl
@[simp] theorem State.putFreq_srcOff (table : List Word) (s : State) : (s.putFreq table).srcOff = s.srcOff := rfl
@[simp] theorem State.putFreq_srcLen (table : List Word) (s : State) : (s.putFreq table).srcLen = s.srcLen := rfl
@[simp] theorem State.putFreq_dstOff (table : List Word) (s : State) : (s.putFreq table).dstOff = s.dstOff := rfl
@[simp] theorem State.putFreq_frameLen (table : List Word) (s : State) : (s.putFreq table).frameLen = s.frameLen := rfl
@[simp] theorem State.putFreq_results (table : List Word) (s : State) : (s.putFreq table).results = s.results := rfl
@[simp] theorem State.putFreq_ftSel (table : List Word) (s : State) : (s.putFreq table).ftSel = s.ftSel := rfl
@[simp] theorem State.putFreq_ctSel (table : List Word) (s : State) : (s.putFreq table).ctSel = s.ctSel := rfl
@[simp] theorem State.putFreq_nodeSel (table : List Word) (s : State) : (s.putFreq table).nodeSel = s.nodeSel := rfl
@[simp] theorem State.putFreq_ft (table : List Word) (s : State) : (s.putFreq table).ft = table := rfl
@[simp] theorem State.putFreq_nodes (table : List Word) (s : State) : (s.putFreq table).nodes = s.nodes := rfl
@[simp] theorem State.putFreq_ct (table : List Word) (s : State) : (s.putFreq table).ct = s.ct := rfl
@[simp] theorem State.putFreq_src (table : List Word) (s : State) : (s.putFreq table).src = s.src := rfl
@[simp] theorem State.putFreq_dst (table : List Word) (s : State) : (s.putFreq table).dst = s.dst := rfl
@[simp] theorem State.putFreq_draws (table : List Word) (s : State) : (s.putFreq table).draws = s.draws := rfl
@[simp] theorem State.putFreq_inbox (table : List Word) (s : State) : (s.putFreq table).inbox = s.inbox := rfl
@[simp] theorem State.putFreq_resp (table : List Word) (s : State) : (s.putFreq table).resp = s.resp := rfl

/-! ### putTree: NODE -/

@[simp] theorem State.putTree_params (tree : List Node) (s : State) : (s.putTree tree).params = s.params := rfl
@[simp] theorem State.putTree_seq (tree : List Node) (s : State) : (s.putTree tree).seq = s.seq := rfl
@[simp] theorem State.putTree_irqEn (tree : List Node) (s : State) : (s.putTree tree).irqEn = s.irqEn := rfl
@[simp] theorem State.putTree_done (tree : List Node) (s : State) : (s.putTree tree).done = s.done := rfl
@[simp] theorem State.putTree_errCode (tree : List Node) (s : State) : (s.putTree tree).errCode = s.errCode := rfl
@[simp] theorem State.putTree_ftValid (tree : List Node) (s : State) : (s.putTree tree).ftValid = s.ftValid := rfl
@[simp] theorem State.putTree_treeValid (tree : List Node) (s : State) : (s.putTree tree).treeValid = true := rfl
@[simp] theorem State.putTree_ctValid (tree : List Node) (s : State) : (s.putTree tree).ctValid = false := rfl
@[simp] theorem State.putTree_cmd (tree : List Node) (s : State) : (s.putTree tree).cmd = s.cmd := rfl
@[simp] theorem State.putTree_errInfo (tree : List Node) (s : State) : (s.putTree tree).errInfo = s.errInfo := rfl
@[simp] theorem State.putTree_srcOff (tree : List Node) (s : State) : (s.putTree tree).srcOff = s.srcOff := rfl
@[simp] theorem State.putTree_srcLen (tree : List Node) (s : State) : (s.putTree tree).srcLen = s.srcLen := rfl
@[simp] theorem State.putTree_dstOff (tree : List Node) (s : State) : (s.putTree tree).dstOff = s.dstOff := rfl
@[simp] theorem State.putTree_frameLen (tree : List Node) (s : State) : (s.putTree tree).frameLen = s.frameLen := rfl
@[simp] theorem State.putTree_results (tree : List Node) (s : State) : (s.putTree tree).results = s.results := rfl
@[simp] theorem State.putTree_ftSel (tree : List Node) (s : State) : (s.putTree tree).ftSel = s.ftSel := rfl
@[simp] theorem State.putTree_ctSel (tree : List Node) (s : State) : (s.putTree tree).ctSel = s.ctSel := rfl
@[simp] theorem State.putTree_nodeSel (tree : List Node) (s : State) : (s.putTree tree).nodeSel = s.nodeSel := rfl
@[simp] theorem State.putTree_ft (tree : List Node) (s : State) : (s.putTree tree).ft = s.ft := rfl
@[simp] theorem State.putTree_nodes (tree : List Node) (s : State) : (s.putTree tree).nodes = tree := rfl
@[simp] theorem State.putTree_ct (tree : List Node) (s : State) : (s.putTree tree).ct = s.ct := rfl
@[simp] theorem State.putTree_src (tree : List Node) (s : State) : (s.putTree tree).src = s.src := rfl
@[simp] theorem State.putTree_dst (tree : List Node) (s : State) : (s.putTree tree).dst = s.dst := rfl
@[simp] theorem State.putTree_draws (tree : List Node) (s : State) : (s.putTree tree).draws = s.draws := rfl
@[simp] theorem State.putTree_inbox (tree : List Node) (s : State) : (s.putTree tree).inbox = s.inbox := rfl
@[simp] theorem State.putTree_resp (tree : List Node) (s : State) : (s.putTree tree).resp = s.resp := rfl

/-! ### putCodes: CT -/

@[simp] theorem State.putCodes_params (codes : List BitString) (s : State) : (s.putCodes codes).params = s.params := rfl
@[simp] theorem State.putCodes_seq (codes : List BitString) (s : State) : (s.putCodes codes).seq = s.seq := rfl
@[simp] theorem State.putCodes_irqEn (codes : List BitString) (s : State) : (s.putCodes codes).irqEn = s.irqEn := rfl
@[simp] theorem State.putCodes_done (codes : List BitString) (s : State) : (s.putCodes codes).done = s.done := rfl
@[simp] theorem State.putCodes_errCode (codes : List BitString) (s : State) : (s.putCodes codes).errCode = s.errCode := rfl
@[simp] theorem State.putCodes_ftValid (codes : List BitString) (s : State) : (s.putCodes codes).ftValid = s.ftValid := rfl
@[simp] theorem State.putCodes_treeValid (codes : List BitString) (s : State) : (s.putCodes codes).treeValid = s.treeValid := rfl
@[simp] theorem State.putCodes_ctValid (codes : List BitString) (s : State) : (s.putCodes codes).ctValid = true := rfl
@[simp] theorem State.putCodes_cmd (codes : List BitString) (s : State) : (s.putCodes codes).cmd = s.cmd := rfl
@[simp] theorem State.putCodes_errInfo (codes : List BitString) (s : State) : (s.putCodes codes).errInfo = s.errInfo := rfl
@[simp] theorem State.putCodes_srcOff (codes : List BitString) (s : State) : (s.putCodes codes).srcOff = s.srcOff := rfl
@[simp] theorem State.putCodes_srcLen (codes : List BitString) (s : State) : (s.putCodes codes).srcLen = s.srcLen := rfl
@[simp] theorem State.putCodes_dstOff (codes : List BitString) (s : State) : (s.putCodes codes).dstOff = s.dstOff := rfl
@[simp] theorem State.putCodes_frameLen (codes : List BitString) (s : State) : (s.putCodes codes).frameLen = s.frameLen := rfl
@[simp] theorem State.putCodes_results (codes : List BitString) (s : State) : (s.putCodes codes).results = s.results := rfl
@[simp] theorem State.putCodes_ftSel (codes : List BitString) (s : State) : (s.putCodes codes).ftSel = s.ftSel := rfl
@[simp] theorem State.putCodes_ctSel (codes : List BitString) (s : State) : (s.putCodes codes).ctSel = s.ctSel := rfl
@[simp] theorem State.putCodes_nodeSel (codes : List BitString) (s : State) : (s.putCodes codes).nodeSel = s.nodeSel := rfl
@[simp] theorem State.putCodes_ft (codes : List BitString) (s : State) : (s.putCodes codes).ft = s.ft := rfl
@[simp] theorem State.putCodes_nodes (codes : List BitString) (s : State) : (s.putCodes codes).nodes = s.nodes := rfl
@[simp] theorem State.putCodes_ct (codes : List BitString) (s : State) : (s.putCodes codes).ct = codes := rfl
@[simp] theorem State.putCodes_src (codes : List BitString) (s : State) : (s.putCodes codes).src = s.src := rfl
@[simp] theorem State.putCodes_dst (codes : List BitString) (s : State) : (s.putCodes codes).dst = s.dst := rfl
@[simp] theorem State.putCodes_draws (codes : List BitString) (s : State) : (s.putCodes codes).draws = s.draws := rfl
@[simp] theorem State.putCodes_inbox (codes : List BitString) (s : State) : (s.putCodes codes).inbox = s.inbox := rfl
@[simp] theorem State.putCodes_resp (codes : List BitString) (s : State) : (s.putCodes codes).resp = s.resp := rfl

/-! ### putOutput: the output bytes -/

@[simp] theorem State.putOutput_params (out : List Byte) (s : State) : (s.putOutput out).params = s.params := rfl
@[simp] theorem State.putOutput_seq (out : List Byte) (s : State) : (s.putOutput out).seq = s.seq := rfl
@[simp] theorem State.putOutput_irqEn (out : List Byte) (s : State) : (s.putOutput out).irqEn = s.irqEn := rfl
@[simp] theorem State.putOutput_done (out : List Byte) (s : State) : (s.putOutput out).done = s.done := rfl
@[simp] theorem State.putOutput_errCode (out : List Byte) (s : State) : (s.putOutput out).errCode = s.errCode := rfl
@[simp] theorem State.putOutput_ftValid (out : List Byte) (s : State) : (s.putOutput out).ftValid = s.ftValid := rfl
@[simp] theorem State.putOutput_treeValid (out : List Byte) (s : State) : (s.putOutput out).treeValid = s.treeValid := rfl
@[simp] theorem State.putOutput_ctValid (out : List Byte) (s : State) : (s.putOutput out).ctValid = s.ctValid := rfl
@[simp] theorem State.putOutput_cmd (out : List Byte) (s : State) : (s.putOutput out).cmd = s.cmd := rfl
@[simp] theorem State.putOutput_errInfo (out : List Byte) (s : State) : (s.putOutput out).errInfo = s.errInfo := rfl
@[simp] theorem State.putOutput_srcOff (out : List Byte) (s : State) : (s.putOutput out).srcOff = s.srcOff := rfl
@[simp] theorem State.putOutput_srcLen (out : List Byte) (s : State) : (s.putOutput out).srcLen = s.srcLen := rfl
@[simp] theorem State.putOutput_dstOff (out : List Byte) (s : State) : (s.putOutput out).dstOff = s.dstOff := rfl
@[simp] theorem State.putOutput_frameLen (out : List Byte) (s : State) : (s.putOutput out).frameLen = s.frameLen := rfl
@[simp] theorem State.putOutput_results (out : List Byte) (s : State) : (s.putOutput out).results = s.results := rfl
@[simp] theorem State.putOutput_ftSel (out : List Byte) (s : State) : (s.putOutput out).ftSel = s.ftSel := rfl
@[simp] theorem State.putOutput_ctSel (out : List Byte) (s : State) : (s.putOutput out).ctSel = s.ctSel := rfl
@[simp] theorem State.putOutput_nodeSel (out : List Byte) (s : State) : (s.putOutput out).nodeSel = s.nodeSel := rfl
@[simp] theorem State.putOutput_ft (out : List Byte) (s : State) : (s.putOutput out).ft = s.ft := rfl
@[simp] theorem State.putOutput_nodes (out : List Byte) (s : State) : (s.putOutput out).nodes = s.nodes := rfl
@[simp] theorem State.putOutput_ct (out : List Byte) (s : State) : (s.putOutput out).ct = s.ct := rfl
@[simp] theorem State.putOutput_src (out : List Byte) (s : State) : (s.putOutput out).src = s.src := rfl
@[simp] theorem State.putOutput_dst (out : List Byte) (s : State) : (s.putOutput out).dst = s.dst.writeBytes s.dstOff.toNat out := rfl
@[simp] theorem State.putOutput_draws (out : List Byte) (s : State) : (s.putOutput out).draws = s.draws := rfl
@[simp] theorem State.putOutput_inbox (out : List Byte) (s : State) : (s.putOutput out).inbox = s.inbox := rfl
@[simp] theorem State.putOutput_resp (out : List Byte) (s : State) : (s.putOutput out).resp = s.resp := rfl

/-! ### accept: acceptance -/

@[simp] theorem State.accept_params (v : Word) (s : State) : (s.accept v).params = s.params := rfl
@[simp] theorem State.accept_seq (v : Word) (s : State) : (s.accept v).seq = .busy := rfl
@[simp] theorem State.accept_irqEn (v : Word) (s : State) : (s.accept v).irqEn = s.irqEn := rfl
@[simp] theorem State.accept_done (v : Word) (s : State) : (s.accept v).done = false := rfl
@[simp] theorem State.accept_errCode (v : Word) (s : State) : (s.accept v).errCode = .none := rfl
@[simp] theorem State.accept_ftValid (v : Word) (s : State) : (s.accept v).ftValid = s.ftValid := rfl
@[simp] theorem State.accept_treeValid (v : Word) (s : State) : (s.accept v).treeValid = s.treeValid := rfl
@[simp] theorem State.accept_ctValid (v : Word) (s : State) : (s.accept v).ctValid = s.ctValid := rfl
@[simp] theorem State.accept_cmd (v : Word) (s : State) : (s.accept v).cmd = v := rfl
@[simp] theorem State.accept_errInfo (v : Word) (s : State) : (s.accept v).errInfo = 0#32 := rfl
@[simp] theorem State.accept_srcOff (v : Word) (s : State) : (s.accept v).srcOff = s.srcOff := rfl
@[simp] theorem State.accept_srcLen (v : Word) (s : State) : (s.accept v).srcLen = s.srcLen := rfl
@[simp] theorem State.accept_dstOff (v : Word) (s : State) : (s.accept v).dstOff = s.dstOff := rfl
@[simp] theorem State.accept_frameLen (v : Word) (s : State) : (s.accept v).frameLen = s.frameLen := rfl
@[simp] theorem State.accept_results (v : Word) (s : State) : (s.accept v).results = s.results := rfl
@[simp] theorem State.accept_ftSel (v : Word) (s : State) : (s.accept v).ftSel = s.ftSel := rfl
@[simp] theorem State.accept_ctSel (v : Word) (s : State) : (s.accept v).ctSel = s.ctSel := rfl
@[simp] theorem State.accept_nodeSel (v : Word) (s : State) : (s.accept v).nodeSel = s.nodeSel := rfl
@[simp] theorem State.accept_ft (v : Word) (s : State) : (s.accept v).ft = s.ft := rfl
@[simp] theorem State.accept_nodes (v : Word) (s : State) : (s.accept v).nodes = s.nodes := rfl
@[simp] theorem State.accept_ct (v : Word) (s : State) : (s.accept v).ct = s.ct := rfl
@[simp] theorem State.accept_src (v : Word) (s : State) : (s.accept v).src = s.src := rfl
@[simp] theorem State.accept_dst (v : Word) (s : State) : (s.accept v).dst = s.dst := rfl
@[simp] theorem State.accept_draws (v : Word) (s : State) : (s.accept v).draws = s.draws := rfl
@[simp] theorem State.accept_inbox (v : Word) (s : State) : (s.accept v).inbox = s.inbox := rfl
@[simp] theorem State.accept_resp (v : Word) (s : State) : (s.accept v).resp = s.resp := rfl

/-! ### finish: the completion record -/

@[simp] theorem State.finish_params (e : ErrCode) (info : Word) (r : Results) (s : State) : (s.finish e info r).params = s.params := rfl
@[simp] theorem State.finish_seq (e : ErrCode) (info : Word) (r : Results) (s : State) : (s.finish e info r).seq = .idle := rfl
@[simp] theorem State.finish_irqEn (e : ErrCode) (info : Word) (r : Results) (s : State) : (s.finish e info r).irqEn = s.irqEn := rfl
@[simp] theorem State.finish_done (e : ErrCode) (info : Word) (r : Results) (s : State) : (s.finish e info r).done = true := rfl
@[simp] theorem State.finish_errCode (e : ErrCode) (info : Word) (r : Results) (s : State) : (s.finish e info r).errCode = e := rfl
@[simp] theorem State.finish_ftValid (e : ErrCode) (info : Word) (r : Results) (s : State) : (s.finish e info r).ftValid = s.ftValid := rfl
@[simp] theorem State.finish_treeValid (e : ErrCode) (info : Word) (r : Results) (s : State) : (s.finish e info r).treeValid = s.treeValid := rfl
@[simp] theorem State.finish_ctValid (e : ErrCode) (info : Word) (r : Results) (s : State) : (s.finish e info r).ctValid = s.ctValid := rfl
@[simp] theorem State.finish_cmd (e : ErrCode) (info : Word) (r : Results) (s : State) : (s.finish e info r).cmd = s.cmd := rfl
@[simp] theorem State.finish_errInfo (e : ErrCode) (info : Word) (r : Results) (s : State) : (s.finish e info r).errInfo = info := rfl
@[simp] theorem State.finish_srcOff (e : ErrCode) (info : Word) (r : Results) (s : State) : (s.finish e info r).srcOff = s.srcOff := rfl
@[simp] theorem State.finish_srcLen (e : ErrCode) (info : Word) (r : Results) (s : State) : (s.finish e info r).srcLen = s.srcLen := rfl
@[simp] theorem State.finish_dstOff (e : ErrCode) (info : Word) (r : Results) (s : State) : (s.finish e info r).dstOff = s.dstOff := rfl
@[simp] theorem State.finish_frameLen (e : ErrCode) (info : Word) (r : Results) (s : State) : (s.finish e info r).frameLen = s.frameLen := rfl
@[simp] theorem State.finish_results (e : ErrCode) (info : Word) (r : Results) (s : State) : (s.finish e info r).results = r := rfl
@[simp] theorem State.finish_ftSel (e : ErrCode) (info : Word) (r : Results) (s : State) : (s.finish e info r).ftSel = s.ftSel := rfl
@[simp] theorem State.finish_ctSel (e : ErrCode) (info : Word) (r : Results) (s : State) : (s.finish e info r).ctSel = s.ctSel := rfl
@[simp] theorem State.finish_nodeSel (e : ErrCode) (info : Word) (r : Results) (s : State) : (s.finish e info r).nodeSel = s.nodeSel := rfl
@[simp] theorem State.finish_ft (e : ErrCode) (info : Word) (r : Results) (s : State) : (s.finish e info r).ft = s.ft := rfl
@[simp] theorem State.finish_nodes (e : ErrCode) (info : Word) (r : Results) (s : State) : (s.finish e info r).nodes = s.nodes := rfl
@[simp] theorem State.finish_ct (e : ErrCode) (info : Word) (r : Results) (s : State) : (s.finish e info r).ct = s.ct := rfl
@[simp] theorem State.finish_src (e : ErrCode) (info : Word) (r : Results) (s : State) : (s.finish e info r).src = s.src := rfl
@[simp] theorem State.finish_dst (e : ErrCode) (info : Word) (r : Results) (s : State) : (s.finish e info r).dst = s.dst := rfl
@[simp] theorem State.finish_draws (e : ErrCode) (info : Word) (r : Results) (s : State) : (s.finish e info r).draws = s.draws := rfl
@[simp] theorem State.finish_inbox (e : ErrCode) (info : Word) (r : Results) (s : State) : (s.finish e info r).inbox = s.inbox := rfl
@[simp] theorem State.finish_resp (e : ErrCode) (info : Word) (r : Results) (s : State) : (s.finish e info r).resp = s.resp := rfl

/-! ### succeed: a successful completion -/

@[simp] theorem State.succeed_params (r : Results) (s : State) : (s.succeed r).params = s.params := rfl
@[simp] theorem State.succeed_seq (r : Results) (s : State) : (s.succeed r).seq = .idle := rfl
@[simp] theorem State.succeed_irqEn (r : Results) (s : State) : (s.succeed r).irqEn = s.irqEn := rfl
@[simp] theorem State.succeed_done (r : Results) (s : State) : (s.succeed r).done = true := rfl
@[simp] theorem State.succeed_errCode (r : Results) (s : State) : (s.succeed r).errCode = .none := rfl
@[simp] theorem State.succeed_ftValid (r : Results) (s : State) : (s.succeed r).ftValid = s.ftValid := rfl
@[simp] theorem State.succeed_treeValid (r : Results) (s : State) : (s.succeed r).treeValid = s.treeValid := rfl
@[simp] theorem State.succeed_ctValid (r : Results) (s : State) : (s.succeed r).ctValid = s.ctValid := rfl
@[simp] theorem State.succeed_cmd (r : Results) (s : State) : (s.succeed r).cmd = s.cmd := rfl
@[simp] theorem State.succeed_errInfo (r : Results) (s : State) : (s.succeed r).errInfo = 0#32 := rfl
@[simp] theorem State.succeed_srcOff (r : Results) (s : State) : (s.succeed r).srcOff = s.srcOff := rfl
@[simp] theorem State.succeed_srcLen (r : Results) (s : State) : (s.succeed r).srcLen = s.srcLen := rfl
@[simp] theorem State.succeed_dstOff (r : Results) (s : State) : (s.succeed r).dstOff = s.dstOff := rfl
@[simp] theorem State.succeed_frameLen (r : Results) (s : State) : (s.succeed r).frameLen = s.frameLen := rfl
@[simp] theorem State.succeed_results (r : Results) (s : State) : (s.succeed r).results = r := rfl
@[simp] theorem State.succeed_ftSel (r : Results) (s : State) : (s.succeed r).ftSel = s.ftSel := rfl
@[simp] theorem State.succeed_ctSel (r : Results) (s : State) : (s.succeed r).ctSel = s.ctSel := rfl
@[simp] theorem State.succeed_nodeSel (r : Results) (s : State) : (s.succeed r).nodeSel = s.nodeSel := rfl
@[simp] theorem State.succeed_ft (r : Results) (s : State) : (s.succeed r).ft = s.ft := rfl
@[simp] theorem State.succeed_nodes (r : Results) (s : State) : (s.succeed r).nodes = s.nodes := rfl
@[simp] theorem State.succeed_ct (r : Results) (s : State) : (s.succeed r).ct = s.ct := rfl
@[simp] theorem State.succeed_src (r : Results) (s : State) : (s.succeed r).src = s.src := rfl
@[simp] theorem State.succeed_dst (r : Results) (s : State) : (s.succeed r).dst = s.dst := rfl
@[simp] theorem State.succeed_draws (r : Results) (s : State) : (s.succeed r).draws = s.draws := rfl
@[simp] theorem State.succeed_inbox (r : Results) (s : State) : (s.succeed r).inbox = s.inbox := rfl
@[simp] theorem State.succeed_resp (r : Results) (s : State) : (s.succeed r).resp = s.resp := rfl

/-! ### raise: an error completion -/

@[simp] theorem State.raise_params (e : ErrCode) (info : Word) (s : State) : (s.raise e info).params = s.params := rfl
@[simp] theorem State.raise_seq (e : ErrCode) (info : Word) (s : State) : (s.raise e info).seq = .idle := rfl
@[simp] theorem State.raise_irqEn (e : ErrCode) (info : Word) (s : State) : (s.raise e info).irqEn = s.irqEn := rfl
@[simp] theorem State.raise_done (e : ErrCode) (info : Word) (s : State) : (s.raise e info).done = true := rfl
@[simp] theorem State.raise_errCode (e : ErrCode) (info : Word) (s : State) : (s.raise e info).errCode = e := rfl
@[simp] theorem State.raise_ftValid (e : ErrCode) (info : Word) (s : State) : (s.raise e info).ftValid = s.ftValid := rfl
@[simp] theorem State.raise_treeValid (e : ErrCode) (info : Word) (s : State) : (s.raise e info).treeValid = s.treeValid := rfl
@[simp] theorem State.raise_ctValid (e : ErrCode) (info : Word) (s : State) : (s.raise e info).ctValid = s.ctValid := rfl
@[simp] theorem State.raise_cmd (e : ErrCode) (info : Word) (s : State) : (s.raise e info).cmd = s.cmd := rfl
@[simp] theorem State.raise_errInfo (e : ErrCode) (info : Word) (s : State) : (s.raise e info).errInfo = info := rfl
@[simp] theorem State.raise_srcOff (e : ErrCode) (info : Word) (s : State) : (s.raise e info).srcOff = s.srcOff := rfl
@[simp] theorem State.raise_srcLen (e : ErrCode) (info : Word) (s : State) : (s.raise e info).srcLen = s.srcLen := rfl
@[simp] theorem State.raise_dstOff (e : ErrCode) (info : Word) (s : State) : (s.raise e info).dstOff = s.dstOff := rfl
@[simp] theorem State.raise_frameLen (e : ErrCode) (info : Word) (s : State) : (s.raise e info).frameLen = s.frameLen := rfl
@[simp] theorem State.raise_results (e : ErrCode) (info : Word) (s : State) : (s.raise e info).results = Results.zero := rfl
@[simp] theorem State.raise_ftSel (e : ErrCode) (info : Word) (s : State) : (s.raise e info).ftSel = s.ftSel := rfl
@[simp] theorem State.raise_ctSel (e : ErrCode) (info : Word) (s : State) : (s.raise e info).ctSel = s.ctSel := rfl
@[simp] theorem State.raise_nodeSel (e : ErrCode) (info : Word) (s : State) : (s.raise e info).nodeSel = s.nodeSel := rfl
@[simp] theorem State.raise_ft (e : ErrCode) (info : Word) (s : State) : (s.raise e info).ft = s.ft := rfl
@[simp] theorem State.raise_nodes (e : ErrCode) (info : Word) (s : State) : (s.raise e info).nodes = s.nodes := rfl
@[simp] theorem State.raise_ct (e : ErrCode) (info : Word) (s : State) : (s.raise e info).ct = s.ct := rfl
@[simp] theorem State.raise_src (e : ErrCode) (info : Word) (s : State) : (s.raise e info).src = s.src := rfl
@[simp] theorem State.raise_dst (e : ErrCode) (info : Word) (s : State) : (s.raise e info).dst = s.dst := rfl
@[simp] theorem State.raise_draws (e : ErrCode) (info : Word) (s : State) : (s.raise e info).draws = s.draws := rfl
@[simp] theorem State.raise_inbox (e : ErrCode) (info : Word) (s : State) : (s.raise e info).inbox = s.inbox := rfl
@[simp] theorem State.raise_resp (e : ErrCode) (info : Word) (s : State) : (s.raise e info).resp = s.resp := rfl

/-! ### acknowledge: the acknowledge -/

@[simp] theorem State.acknowledge_params (s : State) : (s.acknowledge).params = s.params := rfl
@[simp] theorem State.acknowledge_seq (s : State) : (s.acknowledge).seq = s.seq := rfl
@[simp] theorem State.acknowledge_irqEn (s : State) : (s.acknowledge).irqEn = s.irqEn := rfl
@[simp] theorem State.acknowledge_done (s : State) : (s.acknowledge).done = false := rfl
@[simp] theorem State.acknowledge_errCode (s : State) : (s.acknowledge).errCode = s.errCode := rfl
@[simp] theorem State.acknowledge_ftValid (s : State) : (s.acknowledge).ftValid = s.ftValid := rfl
@[simp] theorem State.acknowledge_treeValid (s : State) : (s.acknowledge).treeValid = s.treeValid := rfl
@[simp] theorem State.acknowledge_ctValid (s : State) : (s.acknowledge).ctValid = s.ctValid := rfl
@[simp] theorem State.acknowledge_cmd (s : State) : (s.acknowledge).cmd = s.cmd := rfl
@[simp] theorem State.acknowledge_errInfo (s : State) : (s.acknowledge).errInfo = s.errInfo := rfl
@[simp] theorem State.acknowledge_srcOff (s : State) : (s.acknowledge).srcOff = s.srcOff := rfl
@[simp] theorem State.acknowledge_srcLen (s : State) : (s.acknowledge).srcLen = s.srcLen := rfl
@[simp] theorem State.acknowledge_dstOff (s : State) : (s.acknowledge).dstOff = s.dstOff := rfl
@[simp] theorem State.acknowledge_frameLen (s : State) : (s.acknowledge).frameLen = s.frameLen := rfl
@[simp] theorem State.acknowledge_results (s : State) : (s.acknowledge).results = s.results := rfl
@[simp] theorem State.acknowledge_ftSel (s : State) : (s.acknowledge).ftSel = s.ftSel := rfl
@[simp] theorem State.acknowledge_ctSel (s : State) : (s.acknowledge).ctSel = s.ctSel := rfl
@[simp] theorem State.acknowledge_nodeSel (s : State) : (s.acknowledge).nodeSel = s.nodeSel := rfl
@[simp] theorem State.acknowledge_ft (s : State) : (s.acknowledge).ft = s.ft := rfl
@[simp] theorem State.acknowledge_nodes (s : State) : (s.acknowledge).nodes = s.nodes := rfl
@[simp] theorem State.acknowledge_ct (s : State) : (s.acknowledge).ct = s.ct := rfl
@[simp] theorem State.acknowledge_src (s : State) : (s.acknowledge).src = s.src := rfl
@[simp] theorem State.acknowledge_dst (s : State) : (s.acknowledge).dst = s.dst := rfl
@[simp] theorem State.acknowledge_draws (s : State) : (s.acknowledge).draws = s.draws := rfl
@[simp] theorem State.acknowledge_inbox (s : State) : (s.acknowledge).inbox = s.inbox := rfl
@[simp] theorem State.acknowledge_resp (s : State) : (s.acknowledge).resp = s.resp := rfl

/-! ### softReset -/

@[simp] theorem State.softReset_params (s : State) : s.softReset.params = s.params := rfl
@[simp] theorem State.softReset_seq (s : State) : s.softReset.seq = .idle := rfl
@[simp] theorem State.softReset_irqEn (s : State) : s.softReset.irqEn = false := rfl
@[simp] theorem State.softReset_done (s : State) : s.softReset.done = false := rfl
@[simp] theorem State.softReset_errCode (s : State) : s.softReset.errCode = .none := rfl
@[simp] theorem State.softReset_ftValid (s : State) : s.softReset.ftValid = false := rfl
@[simp] theorem State.softReset_treeValid (s : State) : s.softReset.treeValid = false := rfl
@[simp] theorem State.softReset_ctValid (s : State) : s.softReset.ctValid = false := rfl
@[simp] theorem State.softReset_cmd (s : State) : s.softReset.cmd = 0#32 := rfl
@[simp] theorem State.softReset_errInfo (s : State) : s.softReset.errInfo = 0#32 := rfl
@[simp] theorem State.softReset_srcOff (s : State) : s.softReset.srcOff = 0#32 := rfl
@[simp] theorem State.softReset_srcLen (s : State) : s.softReset.srcLen = 0#32 := rfl
@[simp] theorem State.softReset_dstOff (s : State) : s.softReset.dstOff = 0#32 := rfl
@[simp] theorem State.softReset_frameLen (s : State) : s.softReset.frameLen = 0#32 := rfl
@[simp] theorem State.softReset_results (s : State) : s.softReset.results = Results.zero := rfl
@[simp] theorem State.softReset_ftSel (s : State) : s.softReset.ftSel = 0#8 := rfl
@[simp] theorem State.softReset_ctSel (s : State) : s.softReset.ctSel = 0#8 := rfl
@[simp] theorem State.softReset_nodeSel (s : State) : s.softReset.nodeSel = 0#9 := rfl
@[simp] theorem State.softReset_ft (s : State) : s.softReset.ft = emptyFreqTable := rfl
@[simp] theorem State.softReset_nodes (s : State) : s.softReset.nodes = [] := rfl
@[simp] theorem State.softReset_ct (s : State) : s.softReset.ct = emptyCodeTable := rfl
@[simp] theorem State.softReset_src (s : State) : s.softReset.src = s.src := rfl
@[simp] theorem State.softReset_dst (s : State) : s.softReset.dst = s.dstAfterAbort := rfl
@[simp] theorem State.softReset_draws (s : State) : s.softReset.draws = s.draws + 1 := rfl
@[simp] theorem State.softReset_inbox (s : State) : s.softReset.inbox = s.inbox := rfl
@[simp] theorem State.softReset_resp (s : State) : s.softReset.resp = s.resp := rfl

/-! ### powerCycle -/

@[simp] theorem State.powerCycle_params (s : State) : s.powerCycle.params = s.params := rfl
@[simp] theorem State.powerCycle_seq (s : State) : s.powerCycle.seq = .idle := rfl
@[simp] theorem State.powerCycle_irqEn (s : State) : s.powerCycle.irqEn = false := rfl
@[simp] theorem State.powerCycle_done (s : State) : s.powerCycle.done = false := rfl
@[simp] theorem State.powerCycle_errCode (s : State) : s.powerCycle.errCode = .none := rfl
@[simp] theorem State.powerCycle_ftValid (s : State) : s.powerCycle.ftValid = false := rfl
@[simp] theorem State.powerCycle_treeValid (s : State) : s.powerCycle.treeValid = false := rfl
@[simp] theorem State.powerCycle_ctValid (s : State) : s.powerCycle.ctValid = false := rfl
@[simp] theorem State.powerCycle_cmd (s : State) : s.powerCycle.cmd = 0#32 := rfl
@[simp] theorem State.powerCycle_errInfo (s : State) : s.powerCycle.errInfo = 0#32 := rfl
@[simp] theorem State.powerCycle_srcOff (s : State) : s.powerCycle.srcOff = 0#32 := rfl
@[simp] theorem State.powerCycle_srcLen (s : State) : s.powerCycle.srcLen = 0#32 := rfl
@[simp] theorem State.powerCycle_dstOff (s : State) : s.powerCycle.dstOff = 0#32 := rfl
@[simp] theorem State.powerCycle_frameLen (s : State) : s.powerCycle.frameLen = 0#32 := rfl
@[simp] theorem State.powerCycle_results (s : State) : s.powerCycle.results = Results.zero := rfl
@[simp] theorem State.powerCycle_ftSel (s : State) : s.powerCycle.ftSel = 0#8 := rfl
@[simp] theorem State.powerCycle_ctSel (s : State) : s.powerCycle.ctSel = 0#8 := rfl
@[simp] theorem State.powerCycle_nodeSel (s : State) : s.powerCycle.nodeSel = 0#9 := rfl
@[simp] theorem State.powerCycle_ft (s : State) : s.powerCycle.ft = emptyFreqTable := rfl
@[simp] theorem State.powerCycle_nodes (s : State) : s.powerCycle.nodes = [] := rfl
@[simp] theorem State.powerCycle_ct (s : State) : s.powerCycle.ct = emptyCodeTable := rfl
@[simp] theorem State.powerCycle_src (s : State) : s.powerCycle.src = { cells := [], spans := [], base := s.draws } := rfl
@[simp] theorem State.powerCycle_dst (s : State) : s.powerCycle.dst = { cells := [], spans := [], base := s.draws + 1 } := rfl
@[simp] theorem State.powerCycle_draws (s : State) : s.powerCycle.draws = s.draws + 2 := rfl
@[simp] theorem State.powerCycle_inbox (s : State) : s.powerCycle.inbox = s.inbox := rfl
@[simp] theorem State.powerCycle_resp (s : State) : s.powerCycle.resp = none := rfl

/-! ### powerOn: the state after a power-on reset -/

@[simp] theorem State.powerOn_params (p : Params) (n : Nat) : (State.powerOn p n).params = p := rfl
@[simp] theorem State.powerOn_seq (p : Params) (n : Nat) : (State.powerOn p n).seq = .idle := rfl
@[simp] theorem State.powerOn_irqEn (p : Params) (n : Nat) : (State.powerOn p n).irqEn = false := rfl
@[simp] theorem State.powerOn_done (p : Params) (n : Nat) : (State.powerOn p n).done = false := rfl
@[simp] theorem State.powerOn_errCode (p : Params) (n : Nat) : (State.powerOn p n).errCode = .none := rfl
@[simp] theorem State.powerOn_ftValid (p : Params) (n : Nat) : (State.powerOn p n).ftValid = false := rfl
@[simp] theorem State.powerOn_treeValid (p : Params) (n : Nat) : (State.powerOn p n).treeValid = false := rfl
@[simp] theorem State.powerOn_ctValid (p : Params) (n : Nat) : (State.powerOn p n).ctValid = false := rfl
@[simp] theorem State.powerOn_cmd (p : Params) (n : Nat) : (State.powerOn p n).cmd = 0#32 := rfl
@[simp] theorem State.powerOn_errInfo (p : Params) (n : Nat) : (State.powerOn p n).errInfo = 0#32 := rfl
@[simp] theorem State.powerOn_srcOff (p : Params) (n : Nat) : (State.powerOn p n).srcOff = 0#32 := rfl
@[simp] theorem State.powerOn_srcLen (p : Params) (n : Nat) : (State.powerOn p n).srcLen = 0#32 := rfl
@[simp] theorem State.powerOn_dstOff (p : Params) (n : Nat) : (State.powerOn p n).dstOff = 0#32 := rfl
@[simp] theorem State.powerOn_frameLen (p : Params) (n : Nat) : (State.powerOn p n).frameLen = 0#32 := rfl
@[simp] theorem State.powerOn_results (p : Params) (n : Nat) : (State.powerOn p n).results = Results.zero := rfl
@[simp] theorem State.powerOn_ftSel (p : Params) (n : Nat) : (State.powerOn p n).ftSel = 0#8 := rfl
@[simp] theorem State.powerOn_ctSel (p : Params) (n : Nat) : (State.powerOn p n).ctSel = 0#8 := rfl
@[simp] theorem State.powerOn_nodeSel (p : Params) (n : Nat) : (State.powerOn p n).nodeSel = 0#9 := rfl
@[simp] theorem State.powerOn_ft (p : Params) (n : Nat) : (State.powerOn p n).ft = emptyFreqTable := rfl
@[simp] theorem State.powerOn_nodes (p : Params) (n : Nat) : (State.powerOn p n).nodes = [] := rfl
@[simp] theorem State.powerOn_ct (p : Params) (n : Nat) : (State.powerOn p n).ct = emptyCodeTable := rfl
@[simp] theorem State.powerOn_src (p : Params) (n : Nat) : (State.powerOn p n).src = { cells := [], spans := [], base := n } := rfl
@[simp] theorem State.powerOn_dst (p : Params) (n : Nat) : (State.powerOn p n).dst = { cells := [], spans := [], base := n + 1 } := rfl
@[simp] theorem State.powerOn_draws (p : Params) (n : Nat) : (State.powerOn p n).draws = n + 2 := rfl
@[simp] theorem State.powerOn_inbox (p : Params) (n : Nat) : (State.powerOn p n).inbox = [] := rfl
@[simp] theorem State.powerOn_resp (p : Params) (n : Nat) : (State.powerOn p n).resp = none := rfl

end Sys2Proof.Machine
end

