-- ==== Sys2Proof/Laws/Ops.lean ====
section
/-! SUPPORT. What each shared operation can do, once: the output rule, the checks, the abort, the input bytes and the
little-endian byte order. -/

namespace Sys2Proof.Machine

/-! ### The output rule (R150) -/

theorem State.emit_fits {r : Results} {out : List Byte} {s : State}
    (h : s.dstOff.toNat + out.length ≤ s.params.dstSize) : s.emit r out = (s.putOutput out).succeed r := by
  simp [State.emit, State.outputFits, h]

theorem State.emit_overflow {r : Results} {out : List Byte} {s : State}
    (h : s.params.dstSize < s.dstOff.toNat + out.length) : s.emit r out = s.finish .dstOverflow 0#32 r := by
  have h' : ¬ s.dstOff.toNat + out.length ≤ s.params.dstSize := by omega
  simp [State.emit, State.outputFits, h']

/-- Everything `emit` can do. -/
theorem State.emit_cases (r : Results) (out : List Byte) (s : State) :
    (s.dstOff.toNat + out.length ≤ s.params.dstSize ∧ s.emit r out = (s.putOutput out).succeed r) ∨
    (s.params.dstSize < s.dstOff.toNat + out.length ∧ s.emit r out = s.finish .dstOverflow 0#32 r) := by
  rcases Nat.lt_or_ge s.params.dstSize (s.dstOff.toNat + out.length) with h | h
  · exact .inr ⟨h, State.emit_overflow h⟩
  · exact .inl ⟨h, State.emit_fits h⟩

/-! ### The checks (R304) -/

theorem State.inputError_eq_none {s : State} :
    s.inputError = none ↔ s.srcOff.toNat + s.srcLen.toNat ≤ s.params.srcSize ∧ 0 < s.srcLen.toNat := by
  unfold State.inputError State.srcInRange
  by_cases h : s.srcOff.toNat + s.srcLen.toNat ≤ s.params.srcSize
  · by_cases h0 : s.srcLen.toNat = 0
    · simp [h0, show s.srcOff.toNat ≤ s.params.srcSize by omega]
    · simp [h, h0, Nat.pos_of_ne_zero h0]
  · simp [h]

theorem State.inputError_range {s : State} (h : s.params.srcSize < s.srcOff.toNat + s.srcLen.toNat) :
    s.inputError = some .srcRange := by
  have h' : ¬ s.srcOff.toNat + s.srcLen.toNat ≤ s.params.srcSize := by omega
  simp [State.inputError, State.srcInRange, h']

theorem State.inputError_empty {s : State} (h : s.srcOff.toNat + s.srcLen.toNat ≤ s.params.srcSize)
    (h0 : s.srcLen.toNat = 0) : s.inputError = some .emptyInput := by
  simp [State.inputError, State.srcInRange, h0, show s.srcOff.toNat ≤ s.params.srcSize by omega]

/-- Everything the input checks can answer. -/
theorem State.inputError_cases {s : State} {e : ErrCode} (h : s.inputError = some e) :
    e = .srcRange ∨ e = .emptyInput := by
  unfold State.inputError at h
  split at h
  · exact .inl (by simpa using h.symm)
  · split at h
    · exact .inr (by simpa using h.symm)
    · simp at h

theorem State.audioError_eq_none {s : State} :
    s.audioError = none ↔ s.inputError = none ∧ s.srcLen.toNat % 2 = 0 := by
  unfold State.audioError
  cases s.inputError with
  | some e => simp
  | none => simp

theorem State.videoError_eq_none {s : State} :
    s.videoError = none ↔
      s.inputError = none ∧ 0 < s.frameLen.toNat ∧ s.srcLen.toNat % s.frameLen.toNat = 0 := by
  unfold State.videoError
  cases s.inputError with
  | some e => simp
  | none =>
    by_cases h : s.frameLen.toNat = 0
    · simp [h]
    · simp [h, Nat.pos_of_ne_zero h]

/-! ### The input (R17) -/

@[simp] theorem State.input_length (s : State) : s.input.length = s.srcLen.toNat := by simp [State.input]

theorem State.input_getElem (s : State) (i : Nat) (h : i < s.input.length) : s.input[i] = s.srcByte i :=
  Memory.readBytes_getElem _ _ _ _ h

/-! ### The abort (R343) -/

theorem State.dstAfterAbort_of_abort {s : State} (h : s.abortsOutput = true) :
    s.dstAfterAbort = s.dst.scramble s.dstOff.toNat s.draws := by simp [State.dstAfterAbort, h]

theorem State.dstAfterAbort_of_none {s : State} (h : s.abortsOutput = false) : s.dstAfterAbort = s.dst := by
  simp [State.dstAfterAbort, h]

theorem State.abortsOutput_eq_true {s : State} :
    s.abortsOutput = true ↔ s.seq = .busy ∧ ∃ i, decode s.cmd = .ok i ∧ writesDst i = true := by
  unfold State.abortsOutput
  cases s.seq <;> cases decode s.cmd <;> simp

/-! ### Little-endian bytes (R103) -/

@[simp] theorem leBytes_length (k : Nat) : ∀ v, (leBytes v k).length = k := by
  induction k with
  | zero => intro v; rfl
  | succ k ih => intro v; simp [leBytes, ih]

theorem leBytes_getElem (k : Nat) :
    ∀ (v : Word) (i : Nat) (h : i < (leBytes v k).length), (leBytes v k)[i] = v.extractLsb' (8 * i) 8 := by
  induction k with
  | zero => intro v i h; simp [leBytes] at h
  | succ k ih =>
    intro v i h
    cases i with
    | zero =>
      simp only [leBytes, List.getElem_cons_zero]
      ext j hj
      simp
    | succ i =>
      simp only [leBytes, List.getElem_cons_succ]
      rw [ih]
      ext j hj
      simp [Nat.mul_add, Nat.add_comm, Nat.add_left_comm]

theorem leValue_leBytes (k : Nat) : ∀ v : Word, leValue (leBytes v k) = v.toNat % 2 ^ (8 * k) := by
  induction k with
  | zero => intro v; simp [leBytes, leValue, Nat.mod_one]
  | succ k ih =>
    intro v
    simp only [leBytes, leValue, ih, BitVec.toNat_setWidth, BitVec.toNat_ushiftRight, Nat.shiftRight_eq_div_pow]
    rw [show 8 * (k + 1) = 8 + 8 * k by omega, Nat.pow_add, Nat.mod_mul]

end Sys2Proof.Machine
end

