-- ==== Sys2Proof/Laws/Streams.lean ====
section
/-! SUPPORT. The laws of the output streams: packing loses no bit, and the length of each stream (R140 to R143, R151).
-/

namespace Sys2Proof.Machine

@[simp] theorem bin8_length (b : Byte) : (bin8 b).length = 8 := rfl

@[simp] theorem zeros_length (k : Nat) : (zeros k).length = k := by simp [zeros]

theorem padCount_range (n : Nat) : 1 ≤ padCount n ∧ padCount n ≤ 8 := by
  unfold padCount
  omega

/-- The packed length is a multiple of 8 bits (R181). -/
theorem padCount_aligns (n : Nat) : (n + padCount n) % 8 = 0 := by
  unfold padCount
  omega

theorem bin8_of_bits (b0 b1 b2 b3 b4 b5 b6 b7 : Bool) :
    bin8 (BitVec.ofNat 8 (bitsValue [b0, b1, b2, b3, b4, b5, b6, b7])) = [b0, b1, b2, b3, b4, b5, b6, b7] := by
  revert b0 b1 b2 b3 b4 b5 b6 b7
  decide

/-- The bits of the packed bytes are the packed bits (R14). -/
theorem flatMap_bin8_pack : ∀ (s : BitString), s.length % 8 = 0 → (pack s).flatMap bin8 = s
  | [], _ => rfl
  | b0 :: b1 :: b2 :: b3 :: b4 :: b5 :: b6 :: b7 :: rest, h => by
    have hr : rest.length % 8 = 0 := by simp only [List.length_cons] at h; omega
    rw [pack, List.flatMap_cons, bin8_of_bits, flatMap_bin8_pack rest hr]
    rfl
  | [_], h | [_, _], h | [_, _, _], h | [_, _, _, _], h | [_, _, _, _, _], h | [_, _, _, _, _, _], h
  | [_, _, _, _, _, _, _], h => by simp at h

theorem pack_length : ∀ (s : BitString), (pack s).length = s.length / 8
  | [] => rfl
  | b0 :: b1 :: b2 :: b3 :: b4 :: b5 :: b6 :: b7 :: rest => by
    simp only [pack, List.length_cons, pack_length rest]
    omega
  | [_] | [_, _] | [_, _, _] | [_, _, _, _] | [_, _, _, _, _] | [_, _, _, _, _, _]
  | [_, _, _, _, _, _, _] => by simp [pack]

/-- N of the Huffman stream (R140, R151). -/
theorem huffmanStream_length (bits : BitString) :
    (huffmanStream bits).length = 1 + (bits.length + padCount bits.length) / 8 := by
  simp only [huffmanStream, pack_length, List.length_append, bin8_length, zeros_length]
  omega

/-- The bits of the Huffman stream (R140). -/
theorem huffmanStream_bits (bits : BitString) :
    (huffmanStream bits).flatMap bin8 =
      bin8 (BitVec.ofNat 8 (padCount bits.length)) ++ bits ++ zeros (padCount bits.length) := by
  apply flatMap_bin8_pack
  have := padCount_aligns bits.length
  simp only [List.length_append, bin8_length, zeros_length]
  omega

@[simp] theorem imageStream_length (toks : List (Token Byte)) : (imageStream toks).length = 2 * toks.length := by
  induction toks with
  | nil => rfl
  | cons t toks ih =>
    simp only [imageStream, List.flatMap_cons, List.length_append, List.length_cons, List.length_nil] at ih ⊢
    omega

@[simp] theorem audioStream_length (toks : List (Token (BitVec 16))) :
    (audioStream toks).length = 3 * toks.length := by
  induction toks with
  | nil => rfl
  | cons t toks ih =>
    simp only [audioStream, List.flatMap_cons, List.length_append, le16, List.length_cons, List.length_nil] at ih ⊢
    omega

@[simp] theorem videoSegment_length (toks : List (Token Byte)) :
    (videoSegment toks).length = 4 + 2 * toks.length := by
  simp [videoSegment, be32]
  omega

/-- N of the video stream (R143, R151). -/
theorem videoStream_length (frameToks : List (List (Token Byte))) :
    (videoStream frameToks).length = 4 * frameToks.length + 2 * (frameToks.map List.length).sum := by
  induction frameToks with
  | nil => rfl
  | cons t ts ih =>
    simp only [videoStream, List.flatMap_cons, List.length_append, List.map_cons, List.sum_cons, List.length_cons,
      videoSegment_length] at ih ⊢
    omega

end Sys2Proof.Machine
end

