-- ==== Sys2Proof/Laws/Commands.lean ====
section
/-! SUPPORT. One inversion lemma per meaning: if the command answers a next state, one of these cases holds. -/

namespace Sys2Proof.Machine

theorem execNop_cases {s t : State} (h : execNop s = .next t) : t = s.succeed s.results := by
  simpa [execNop] using h.symm

theorem execFreqCount_cases {s t : State} (h : execFreqCount s = .next t) :
    (∃ e, s.inputError = some e ∧ t = s.raise e 0#32) ∨
    (s.inputError = none ∧ t = (s.putFreq (freq s.input)).succeed Results.zero) := by
  unfold execFreqCount at h
  split at h
  · exact .inl ⟨_, ‹_›, by simpa using h.symm⟩
  · exact .inr ⟨‹_›, by simpa using h.symm⟩

theorem execTreeBuild_cases {s t : State} (h : execTreeBuild s = .next t) :
    (s.ftValid = true ∧ t = (s.putTree (build s.ft)).succeed Results.zero) ∨
    (s.ftValid = false ∧ t = s.raise .noTable 0#32) := by
  unfold execTreeBuild at h
  split at h
  · exact .inl ⟨‹_›, by simpa using h.symm⟩
  · exact .inr ⟨by simpa using ‹¬ s.ftValid = true›, by simpa using h.symm⟩

theorem execCodeGen_cases {s t : State} (h : execCodeGen s = .next t) :
    (s.treeValid = true ∧ t = (s.putCodes (gen s.nodes)).succeed Results.zero) ∨
    (s.treeValid = false ∧ t = s.raise .noTree 0#32) := by
  unfold execCodeGen at h
  split at h
  · exact .inl ⟨‹_›, by simpa using h.symm⟩
  · exact .inr ⟨by simpa using ‹¬ s.treeValid = true›, by simpa using h.symm⟩

theorem execBitPack_cases {s t : State} (h : execBitPack s = .next t) :
    (s.ctValid = false ∧ t = s.raise .noCodes 0#32) ∨
    (s.ctValid = true ∧ ∃ e, s.inputError = some e ∧ t = s.raise e 0#32) ∨
    (s.ctValid = true ∧ s.inputError = none ∧ ∃ k, firstMissing s.input s.ct = some k ∧
      t = s.raise .missingCode (BitVec.ofNat 32 k)) ∨
    (s.ctValid = true ∧ s.inputError = none ∧ firstMissing s.input s.ct = none ∧
      t = packOutput s.input s.ct s) := by
  unfold execBitPack at h
  split at h
  · split at h
    · exact .inr (.inl ⟨‹_›, _, ‹_›, by simpa using h.symm⟩)
    · split at h
      · exact .inr (.inr (.inl ⟨‹_›, ‹_›, _, ‹_›, by simpa using h.symm⟩))
      · exact .inr (.inr (.inr ⟨‹_›, ‹_›, ‹_›, by simpa using h.symm⟩))
  · exact .inl ⟨by simpa using ‹¬ s.ctValid = true›, by simpa using h.symm⟩

/-- The state in which HUFF_ENCODE packs its output: the three tables are those of the input (R185). -/
def State.withInputTables (s : State) : State :=
  ((s.putFreq (freq s.input)).putTree (build (freq s.input))).putCodes (gen (build (freq s.input)))

theorem execHuffEncode_cases {s t : State} (h : execHuffEncode s = .next t) :
    (∃ e, s.inputError = some e ∧ t = s.raise e 0#32) ∨
    (s.inputError = none ∧ t = packOutput s.input (gen (build (freq s.input))) s.withInputTables) := by
  unfold execHuffEncode at h
  split at h
  · exact .inl ⟨_, ‹_›, by simpa using h.symm⟩
  · exact .inr ⟨‹_›, by simpa [State.withInputTables] using h.symm⟩

theorem execRleImage_cases {s t : State} (h : execRleImage s = .next t) :
    (∃ e, s.inputError = some e ∧ t = s.raise e 0#32) ∨
    (s.inputError = none ∧ t = imageOutput (tokenize s.input) s) := by
  unfold execRleImage at h
  split at h
  · exact .inl ⟨_, ‹_›, by simpa using h.symm⟩
  · exact .inr ⟨‹_›, by simpa using h.symm⟩

theorem execRleAudio_cases {s t : State} (h : execRleAudio s = .next t) :
    (∃ e, s.audioError = some e ∧ t = s.raise e 0#32) ∨
    (s.audioError = none ∧ t = audioOutput (tokenize (samples s.input)) s) := by
  unfold execRleAudio at h
  split at h
  · exact .inl ⟨_, ‹_›, by simpa using h.symm⟩
  · exact .inr ⟨‹_›, by simpa using h.symm⟩

theorem execRleVideo_cases {s t : State} (h : execRleVideo s = .next t) :
    (∃ e, s.videoError = some e ∧ t = s.raise e 0#32) ∨
    (s.videoError = none ∧ t = videoOutput ((frames s.frameLen.toNat s.input).map tokenize) s) := by
  unfold execRleVideo at h
  split at h
  · exact .inl ⟨_, ‹_›, by simpa using h.symm⟩
  · exact .inr ⟨‹_›, by simpa using h.symm⟩

end Sys2Proof.Machine
end

