-- ==== Sys2Proof/Laws/PerInstr.lean ====
section
/-! SUPPORT. Statements about every instruction as syntax, one lemma per constructor: the encoding of each command fits
the one format of R130 (RES is 0) and its opcode stands in the map of R132 once. -/

namespace Sys2Proof.Laws.FormatC

/-- The command word has RES = 0, and its OP is the row of the map that names the command, and no other row. -/
def Statement (i : Instr) : Prop :=
  resField (encode i) = 0#24 ∧ opcodeRows.filter (fun row => decide (row.2 = i)) = [(opField (encode i), i)] ∧
    opcodeRows.filter (fun row => decide (row.1 = opField (encode i))) = [(opField (encode i), i)] ∧ i.wf = true

theorem nop : Statement .nop := by unfold Statement; decide
theorem huffEncode : Statement .huffEncode := by unfold Statement; decide
theorem freqCount : Statement .freqCount := by unfold Statement; decide
theorem treeBuild : Statement .treeBuild := by unfold Statement; decide
theorem codeGen : Statement .codeGen := by unfold Statement; decide
theorem bitPack : Statement .bitPack := by unfold Statement; decide
theorem rleImage : Statement .rleImage := by unfold Statement; decide
theorem rleAudio : Statement .rleAudio := by unfold Statement; decide
theorem rleVideo : Statement .rleVideo := by unfold Statement; decide

end Sys2Proof.Laws.FormatC
end

