-- ==== Sys2Proof/Laws/Port.lean ====
section
/-! SUPPORT. The laws of the slave port: where an access lands, and what a register access at a register's own address
does. -/

namespace Sys2Proof.Machine

theorem regAt_regOffset (r : Reg) : regAt (regOffset r) = r := by
  cases r <;> first | rfl | (rename_i k; revert k; decide)

theorem regOffset_lt (r : Reg) : regOffset r < 0x90 := by
  cases r <;> first | decide | (rename_i k; revert k; decide)

theorem regOffset_aligned (r : Reg) : regOffset r % 4 = 0 := by
  cases r <;> first | decide | (rename_i k; revert k; decide)

theorem regAddr_toNat (r : Reg) : (regAddr r).toNat = regOffset r := by
  have := regOffset_lt r
  simp only [regAddr, BitVec.toNat_ofNat]
  omega

/-- A 32-bit access at a register's address lands on the register (R101, R105). -/
theorem locate_regAddr (p : Params) (r : Reg) : locate p (regAddr r) .word = .ok (.reg r) := by
  have h := regOffset_lt r
  have ha := regOffset_aligned r
  have hlt : regOffset r < regFileSize := by unfold regFileSize; omega
  simp only [locate, regAddr_toNat, if_pos hlt]
  simp [locateReg, ha, regAt_regOffset]

/-- A read at a register's address is admitted always (R107). -/
theorem hostTurn_readReg (r : Reg) (s : State) :
    hostTurn (.read (regAddr r) .word) s = .next ((readReg r s).2.respond (.data (readReg r s).1)) := by
  simp [hostTurn, portAccess, locate_regAddr, readPlace]

/-- A write at a register's address while IDLE is admitted (R34). -/
theorem hostTurn_writeReg_idle (r : Reg) (v : Word) (s : State) (h : s.seq = .idle) :
    hostTurn (.write (regAddr r) .word v) s = .next ((writeReg r v s).respond .done) := by
  simp [hostTurn, portAccess, locate_regAddr, writePlace, h]

/-- A write at a register's address while BUSY: only CTRL and STATUS (R107). -/
theorem hostTurn_writeReg_busy (r : Reg) (v : Word) (s : State) (h : s.seq = .busy) :
    hostTurn (.write (regAddr r) .word v) s =
      if writableWhileBusy r then .next ((writeReg r v s).respond .done) else .next (s.respond .busError) := by
  by_cases hr : writableWhileBusy r <;> simp [hostTurn, portAccess, locate_regAddr, writePlace, h, hr]

/-- The offset of an address in SRC. -/
theorem locate_srcAddr (p : Params) (off : Nat) (w : Width) (hoff : off < dstBase - srcBase) :
    locate p (windowAddr .src off) w = locateWindow off p.srcSize w (.src off) := by
  unfold dstBase srcBase at hoff
  have ha : (windowAddr .src off).toNat = srcBase + off := by
    simp only [windowAddr, BitVec.toNat_ofNat, srcBase]
    omega
  have h1 : ¬ srcBase + off < regFileSize := by unfold srcBase regFileSize; omega
  have h2 : srcBase ≤ srcBase + off ∧ srcBase + off < dstBase := by unfold srcBase dstBase; omega
  simp [locate, ha, h1, h2]

/-- The offset of an address in DST. -/
theorem locate_dstAddr (p : Params) (off : Nat) (w : Width) (hoff : off < dstEnd - dstBase) :
    locate p (windowAddr .dst off) w = locateWindow off p.dstSize w (.dst off) := by
  unfold dstEnd dstBase at hoff
  have ha : (windowAddr .dst off).toNat = dstBase + off := by
    simp only [windowAddr, BitVec.toNat_ofNat, dstBase]
    omega
  have h1 : ¬ dstBase + off < regFileSize := by unfold dstBase regFileSize; omega
  have h2 : ¬ dstBase + off < dstBase := by omega
  have h3 : dstBase ≤ dstBase + off ∧ dstBase + off < dstEnd := by unfold dstBase dstEnd; omega
  simp [locate, ha, h1, h2, h3]

/-- An aligned access inside its region lands there (R106). -/
theorem locateWindow_ok {off size : Nat} {w : Width} (place : Place) (h : off % widthBytes w = 0)
    (hs : off + widthBytes w ≤ size) : locateWindow off size w place = .ok place := by
  have : ¬ size < off + widthBytes w := by omega
  simp [locateWindow, h, this]

theorem readPlace_not_refused (p : Place) (w : Width) (s : State) (r : Refusal) :
    readPlace p w s ≠ .refused r := by
  unfold readPlace
  split <;> simp

theorem writePlace_not_refused (p : Place) (w : Width) (v : Word) (s : State) (r : Refusal) :
    writePlace p w v s ≠ .refused r := by
  unfold writePlace
  split
  case h_2 => split <;> simp
  all_goals simp

/-- The port gives every access a meaning: it answers or it faults (R108). -/
theorem portAccess_not_refused (a : Access) (s : State) (r : Refusal) : portAccess a s ≠ .refused r := by
  unfold portAccess
  cases a with
  | read addr w =>
    dsimp only
    cases locate s.params addr w with
    | error f => simp
    | ok p => exact readPlace_not_refused p w s r
  | write addr w v =>
    dsimp only
    cases locate s.params addr w with
    | error f => simp
    | ok p => exact writePlace_not_refused p w v s r

end Sys2Proof.Machine
end

