-- ==== Sys2Proof/Laws/Step.lean ====
section
/-! SUPPORT. One step by what stands at the head of the schedule, and that a placed command is what the next step
runs. -/

namespace Sys2Proof.Machine

theorem step_of_nil {s : State} (h : s.inbox = []) : step s = engineTurn s := by simp [step, h]

theorem step_of_engine {s : State} {rest : List Event} (h : s.inbox = .engine :: rest) :
    step s = engineTurn (s.setInbox rest) := by simp [step, h]

theorem step_of_access {s : State} {a : Access} {rest : List Event} (h : s.inbox = .access a :: rest) :
    step s = hostTurn a (s.setInbox rest) := by simp [step, h]

theorem step_of_powerOn {s : State} {rest : List Event} (h : s.inbox = .powerOn :: rest) :
    step s = .next (s.setInbox rest).powerCycle := by simp [step, h]

/-- A placed command word is decoded and completed by the very next step, in the accepted state. -/
theorem step_withFetchWord (s : State) (nbits w : Nat) :
    step (s.withFetchWord nbits w) = complete (s.accept (tableWord nbits w)) := rfl

/-- Running on from a step that answers a next state. -/
theorem run_succ_of_step {k : Nat} {s u : State} (h : step s = .next u) :
    Sys2Proof.core.run (k + 1) s = Sys2Proof.core.run k u := by
  have h' : Sys2Proof.core.step s = .next u := h
  exact (Host.Core.run.eq_2 Sys2Proof.core s k).trans (by rw [h'])

/-- Every command completes: its meaning answers a next state, whatever the state (R281). -/
theorem exec_answers (i : Instr) (s : State) : ∃ t, exec i s = .next t := by
  cases i <;> simp only [exec, execNop, execHuffEncode, execFreqCount, execTreeBuild, execCodeGen, execBitPack,
    execRleImage, execRleAudio, execRleVideo]
  all_goals (repeat' split) <;> exact ⟨_, rfl⟩

/-- Every completion leaves DONE set, CORE IDLE and CTRL as it was (R281). -/
theorem exec_records {i : Instr} {s t : State} (h : exec i s = .next t) :
    t.done = true ∧ t.seq = .idle ∧ t.irqEn = s.irqEn := by
  cases i <;> simp only [exec, execNop, execHuffEncode, execFreqCount, execTreeBuild, execCodeGen, execBitPack,
    execRleImage, execRleAudio, execRleVideo, packOutput, imageOutput, audioOutput, videoOutput, State.emit] at h
  all_goals (repeat' split at h) <;> (simp at h; subst h; simp)

/-- A host access either changes what the port admits, or is refused and changes nothing but the answer (R108). -/
theorem hostTurn_cases {a : Access} {s t : State} (h : hostTurn a s = .next t) :
    portAccess a s = .next t ∨ (∃ f, portAccess a s = .fault f) ∧ t = s.respond .busError := by
  unfold hostTurn at h
  split at h
  · left
    rename_i hp
    rw [hp]
    exact h
  · right
    exact ⟨⟨_, ‹_›⟩, by simpa using h.symm⟩
  · cases h

end Sys2Proof.Machine
end

