-- ==== Sys2Proof/Laws/Tables.lean ====
section
/-! SUPPORT. The laws of the frequency and code tables: their lengths, what an entry of a counted table is, and the total
of its counts (R160, R170); and that an admitted window access lies inside its memory (R106). -/

namespace Sys2Proof.Machine

theorem emptyFreqTable_length : emptyFreqTable.length = 256 := by rw [emptyFreqTable, List.length_replicate]

theorem emptyCodeTable_length : emptyCodeTable.length = 256 := by rw [emptyCodeTable, List.length_replicate]

theorem freq_length (input : List Byte) : (freq input).length = 256 := by simp [freq]

theorem gen_length (tree : List Node) : (gen tree).length = 256 := by simp [gen]

/-- An entry of a counted table is the number of occurrences (R160). -/
theorem freqOf_freq (input : List Byte) (v : Byte) : freqOf (freq input) v = BitVec.ofNat 32 (input.count v) := by
  have hv : v.toNat < 256 := v.isLt
  have hb : BitVec.ofNat 8 v.toNat = v := BitVec.eq_of_toNat_eq (by simp)
  simp only [freqOf, freq, List.getD, List.getElem?_map, List.getElem?_range hv, Option.map_some, Option.getD_some]
  rw [hb]

/-- Each byte is exactly one of the 256 symbols. -/
theorem one_symbol : ∀ b : Byte, ((List.range 256).map (fun k => if b == BitVec.ofNat 8 k then 1 else 0)).sum = 1 := by
  decide +kernel

theorem sum_map_add (f g : Nat → Nat) (l : List Nat) :
    (l.map (fun k => f k + g k)).sum = (l.map f).sum + (l.map g).sum := by
  induction l with
  | nil => rfl
  | cons a l ih => simp only [List.map_cons, List.sum_cons, ih]; omega

theorem sum_map_zero (f : Nat → Nat) (hf : ∀ k, f k = 0) (l : List Nat) : (l.map f).sum = 0 := by
  induction l with
  | nil => rfl
  | cons a l ih => rw [List.map_cons, List.sum_cons, ih, hf]

/-- The occurrences of all symbols add up to the length of the input (R160). -/
theorem sum_count (input : List Byte) :
    ((List.range 256).map (fun k => input.count (BitVec.ofNat 8 k))).sum = input.length := by
  induction input with
  | nil => exact sum_map_zero _ (fun _ => List.count_nil) _
  | cons b input ih =>
    simp only [List.count_cons, List.length_cons]
    rw [← ih, sum_map_add, one_symbol b]

/-- The counts of a table add up to at most the length of the input; no addition wraps (R11, R160). -/
theorem freq_sum_le (input : List Byte) : ((freq input).map BitVec.toNat).sum ≤ input.length := by
  have h : ∀ l : List Nat, ((l.map (fun k => BitVec.ofNat 32 (input.count (BitVec.ofNat 8 k)))).map BitVec.toNat).sum ≤
      (l.map (fun k => input.count (BitVec.ofNat 8 k))).sum := by
    intro l
    induction l with
    | nil => exact Nat.le_refl _
    | cons a l ih =>
      have := Nat.mod_le (input.count (BitVec.ofNat 8 a)) (2 ^ 32)
      simp only [List.map_cons, List.sum_cons, BitVec.toNat_ofNat]
      omega
  rw [← sum_count input]
  exact h _

/-- An admitted SRC access lies inside SRC (R106). -/
theorem locate_src_within {p : Params} {addr : Word} {w : Width} {off : Nat} (h : locate p addr w = .ok (.src off)) :
    off + widthBytes w ≤ p.srcSize := by
  simp only [locate, locateReg, locateWindow] at h
  split at h
  · split at h
    · cases h
    · split at h <;> cases h
  · split at h
    · split at h
      · cases h
      · split at h
        · cases h
        · injection h with h
          injection h with h
          omega
    · split at h
      · split at h
        · cases h
        · split at h <;> cases h
      · cases h

/-- An admitted DST access lies inside DST (R106). -/
theorem locate_dst_within {p : Params} {addr : Word} {w : Width} {off : Nat} (h : locate p addr w = .ok (.dst off)) :
    off + widthBytes w ≤ p.dstSize := by
  simp only [locate, locateReg, locateWindow] at h
  split at h
  · split at h
    · cases h
    · split at h <;> cases h
  · split at h
    · split at h
      · cases h
      · split at h <;> cases h
    · split at h
      · split at h
        · cases h
        · split at h
          · cases h
          · injection h with h
            injection h with h
            omega
      · cases h

end Sys2Proof.Machine
end

