-- ==== Sys2Proof/Tests/Slice0.lean ====
section
/-! SUPPORT. The model's own tests. Part 1: what the checks refuse. Part 2: decoding of words written out from R130 and
R132. Part 3: single steps, with the results of spec/95_test_vectors.md (the vector is named at each test). Part 4: one
witness per statement with hypotheses. -/

namespace Sys2Proof.Tests

open Sys2Proof Sys2Proof.Machine

set_option Elab.async false

/-! ### Helpers -/

/-- The next state, if there is one. -/
def nextOf (o : Host.Outcome State Fault Refusal) : Option State :=
  match o with
  | .next t => some t
  | _ => none

/-- The fault, if there is one. -/
def faultOf (o : Host.Outcome State Fault Refusal) : Option Fault :=
  match o with
  | .fault f => some f
  | _ => none

/-- The reset state with `bytes` at SRC offset 0 and SRC_LEN their number. -/
def loaded (bytes : List Byte) : State :=
  { State.reset with
    src := { State.reset.src with cells := bytes.zipIdx.map (fun p => (p.2, p.1)) }
    srcLen := BitVec.ofNat 32 bytes.length }

/-- "abracadabra". -/
def abra : List Byte :=
  [0x61#8, 0x62#8, 0x72#8, 0x61#8, 0x63#8, 0x61#8, 0x64#8, 0x61#8, 0x62#8, 0x72#8, 0x61#8]

/-- The table of "abracadabra" (FRQ1): a 5, b 2, c 1, d 1, r 2. -/
def abraTable : List Word :=
  List.replicate 0x61 0#32 ++ [5#32, 2#32, 1#32, 1#32] ++ List.replicate 13 0#32 ++ [2#32] ++ List.replicate 141 0#32

/-- The tree of "abracadabra" (HUF2). -/
def abraTree : List Node :=
  [.leaf 0x61#8 5#32, .leaf 0x62#8 2#32, .leaf 0x63#8 1#32, .leaf 0x64#8 1#32, .leaf 0x72#8 2#32,
   .internal 2#9 3#9 2#32, .internal 1#9 4#9 4#32, .internal 5#9 6#9 6#32, .internal 0#9 7#9 11#32]

/-- The codes of "abracadabra" (HUF2): a "0", b "110", c "100", d "101", r "111". -/
def abraCodes : List BitString :=
  List.replicate 0x61 [] ++ [[false], [true, true, false], [true, false, false], [true, false, true]] ++
    List.replicate 13 [] ++ [[true, true, true]] ++ List.replicate 141 []

/-- `loaded bytes` with the table of "abracadabra". -/
def countedAbra (bytes : List Byte) : State := { loaded bytes with ft := abraTable, ftValid := true }

/-- `countedAbra` with the tree. -/
def grownAbra (bytes : List Byte) : State := { countedAbra bytes with nodes := abraTree, treeValid := true }

/-- `grownAbra` with the codes. -/
def codedAbra (bytes : List Byte) : State := { grownAbra bytes with ct := abraCodes, ctValid := true }

/-- `loaded bytes` with the table and the tree of "aaaa" (TRE3): one leaf. -/
def grownLeaf (bytes : List Byte) : State :=
  { loaded bytes with
    ft := List.replicate 0x61 0#32 ++ [4#32] ++ List.replicate 158 0#32
    nodes := [.leaf 0x61#8 4#32]
    ftValid := true
    treeValid := true }

/-- `grownLeaf` with the code (COD3): a "0". -/
def codedLeaf (bytes : List Byte) : State :=
  { grownLeaf bytes with ct := List.replicate 0x61 [] ++ [[false]] ++ List.replicate 158 [], ctValid := true }

/-- A BUSY machine with the command word `w` in CMD. -/
def busyWith (w : Word) (s : State) : State := { s with seq := .busy, cmd := w }

/-! ### Part 1: what the checks refuse (R8, R133) -/

theorem test_wf_src_size_zero : ({ srcSize := 0, dstSize := 4096 } : Params).wf = false := by decide
theorem test_wf_dst_size_zero : ({ srcSize := 4096, dstSize := 0 } : Params).wf = false := by decide
theorem test_wf_src_size_above : ({ srcSize := 16777217, dstSize := 4096 } : Params).wf = false := by decide
theorem test_wf_dst_size_above : ({ srcSize := 4096, dstSize := 16777217 } : Params).wf = false := by decide
theorem test_wf_least_sizes : ({ srcSize := 1, dstSize := 1 } : Params).wf = true := by decide
theorem test_wf_greatest_sizes : ({ srcSize := 16777216, dstSize := 16777216 } : Params).wf = true := by decide

/-- A command has no operand that could be ill formed (R131), so every instruction passes; what is refused is an
ill-formed word, by name. -/
theorem test_wf_every_instruction :
    [Instr.nop, .huffEncode, .freqCount, .treeBuild, .codeGen, .bitPack, .rleImage, .rleAudio, .rleVideo].all Instr.wf =
      true := by decide

theorem test_ill_formed_word_reserved_bits : decode 0x00000101#32 = .error .reservedBits := by decide
theorem test_ill_formed_word_opcode : decode 0x00000006#32 = .error .undefinedOpcode := by decide

/-! ### Part 2: decoding (R130, R132): bit 0 of OP is the least significant bit -/

theorem test_decode_nop_bits : decode (0b000000000000000000000000#24 ++ 0b00000000#8) = .ok .nop := by decide
theorem test_decode_huffEncode_bits : decode (0b000000000000000000000000#24 ++ 0b00000001#8) = .ok .huffEncode := by
  decide
theorem test_decode_freqCount_bits : decode (0b000000000000000000000000#24 ++ 0b00000010#8) = .ok .freqCount := by
  decide
theorem test_decode_treeBuild_bits : decode (0b000000000000000000000000#24 ++ 0b00000011#8) = .ok .treeBuild := by
  decide
theorem test_decode_codeGen_bits : decode (0b000000000000000000000000#24 ++ 0b00000100#8) = .ok .codeGen := by decide
theorem test_decode_bitPack_bits : decode (0b000000000000000000000000#24 ++ 0b00000101#8) = .ok .bitPack := by decide
theorem test_decode_rleImage_bits : decode (0b000000000000000000000000#24 ++ 0b00010000#8) = .ok .rleImage := by decide
theorem test_decode_rleAudio_bits : decode (0b000000000000000000000000#24 ++ 0b00010001#8) = .ok .rleAudio := by decide
theorem test_decode_rleVideo_bits : decode (0b000000000000000000000000#24 ++ 0b00010010#8) = .ok .rleVideo := by decide
theorem test_decode_top_bit : decode (0b100000000000000000000000#24 ++ 0b00000001#8) = .error .reservedBits := by decide
theorem test_decode_table_word : decodeTableWord 32 0x12 = some .rleVideo := by decide
theorem test_decode_table_word_short : decodeTableWord 8 0x05 = some .bitPack := by decide
theorem test_decode_table_word_refused : decodeTableWord 32 0x101 = none := by decide

/-! ### Part 3: single steps -/

/-- The first step from reset runs the placed command and completes it: P6, `RUN NOP` gives STATUS 0x0000_0002. -/
theorem test_step_runs_fetch_word :
    (nextOf (step (State.reset.withFetchWord 32 0x00))).map (fun t => (t.statusWord, t.cmd, t.inbox)) =
      some (0x00000002#32, 0#32, []) := by decide +kernel

/-- P6: TREE_BUILD after reset reports NO_TABLE, STATUS 0x0002_0006. -/
theorem test_step_treeBuild_from_reset :
    (nextOf (step (State.reset.withFetchWord 32 0x03))).map State.statusWord = some 0x00020006#32 := by decide +kernel

/-- CTL3: an illegal word is accepted and completes with ILLEGAL_CMD, STATUS 0x0001_0006. -/
theorem test_step_illegal :
    (nextOf (step (State.reset.withFetchWord 32 0x101))).map (fun t => (t.statusWord, t.cmd)) =
      some (0x00010006#32, 0x00000101#32) := by decide +kernel

/-- CTL6: NOP keeps OUT_LEN and the VALID bits. -/
theorem test_nop_keeps_results :
    (nextOf (exec .nop { codedAbra abra with results := { Results.zero with outLen := 4#32 } })).map
      (fun t => (t.statusWord, t.results.outLen)) = some (0x00000702#32, 4#32) := by decide +kernel

/-- HUF2: "abracadabra". -/
theorem test_huffEncode_abracadabra :
    (nextOf (exec .huffEncode (loaded abra))).map
      (fun t => (t.dst.readBytes 0 4, t.statusWord, t.results.pad, t.results.codeBits, t.nsymValue)) =
      some ([0x01#8, 0x6E#8, 0x8A#8, 0xDC#8], 0x00000702#32, 1#4, 23#32, 5#32) := by decide +kernel

/-- W3, HUF1: one distinct symbol. -/
theorem test_huffEncode_single_symbol :
    (nextOf (exec .huffEncode (loaded [0x61#8, 0x61#8, 0x61#8, 0x61#8]))).map
      (fun t => (t.dst.readBytes 0 2, t.results.outLen, t.results.pad)) = some ([0x04#8, 0x00#8], 2#32, 4#4) := by
  decide +kernel

/-- FRQ1. -/
theorem test_freqCount_abracadabra :
    (nextOf (exec .freqCount (codedLeaf abra))).map
      (fun t => (t.statusWord, [0x61#8, 0x62#8, 0x63#8, 0x64#8, 0x72#8, 0x7A#8].map (freqOf t.ft))) =
      some (0x00000102#32, [5#32, 2#32, 1#32, 1#32, 2#32, 0#32]) := by decide +kernel

/-- FRQ5: the sum is not taken modulo 2^32. -/
theorem test_freqCount_range_is_exact :
    (nextOf (exec .freqCount { loaded [0x61#8] with srcOff := 0xFFFFFFFF#32 })).map State.statusWord =
      some 0x00050006#32 := by decide +kernel

/-- The tree of HUF2, TRE1. -/
theorem test_treeBuild_abracadabra :
    (nextOf (exec .treeBuild (countedAbra []))).map (fun t => (t.statusWord, t.treeRootValue, t.nodes)) =
      some (0x00000302#32, 8#32,
        [.leaf 0x61#8 5#32, .leaf 0x62#8 2#32, .leaf 0x63#8 1#32, .leaf 0x64#8 1#32, .leaf 0x72#8 2#32,
         .internal 2#9 3#9 2#32, .internal 1#9 4#9 4#32, .internal 5#9 6#9 6#32, .internal 0#9 7#9 11#32]) := by
  decide +kernel

/-- TRE1: NODE_INFO of nodes 8, 0, 5 and 9. -/
theorem test_treeBuild_readback :
    (nextOf (exec .treeBuild (countedAbra []))).map (fun t =>
        [8#9, 0#9, 5#9, 9#9].map (fun k => regValue .nodeInfo { t with nodeSel := k })) =
      some [0x80000E00#32, 0xC1840000#32, 0x80000602#32, 0#32] := by decide +kernel

/-- COD1. -/
theorem test_codeGen_abracadabra :
    (nextOf (exec .codeGen (grownAbra []))).map (fun t => (t.statusWord,
        [0x62#8, 0x61#8, 0x63#8, 0x7A#8].map (fun v =>
          (regValue .ctLen { t with ctSel := v }, regValue (.ctCode 0) { t with ctSel := v })))) =
      some (0x00000702#32, [(3#32, 0xC0000000#32), (1#32, 0#32), (3#32, 0x80000000#32), (0#32, 0#32)]) := by
  decide +kernel

/-- COD3: the single leaf's code is "0". -/
theorem test_codeGen_single_leaf :
    (nextOf (exec .codeGen (grownLeaf []))).map (fun t => (codeOf t.ct 0x61#8, codeOf t.ct 0x62#8)) =
      some ([false], []) := by decide +kernel

/-- BPK2: "cab". -/
theorem test_bitPack_cab :
    (nextOf (exec .bitPack (codedAbra [0x63#8, 0x61#8, 0x62#8]))).map
      (fun t => (t.dst.readBytes 0 2, t.results.outLen, t.results.pad, t.results.codeBits)) =
      some ([0x01#8, 0x8C#8], 2#32, 1#4, 7#32) := by decide +kernel

/-- BPK3, BPK7: a missing code is found before the output check. -/
theorem test_bitPack_missing_code :
    (nextOf (exec .bitPack { codedAbra [0x61#8, 0x62#8, 0x7A#8] with dstOff := 4095#32 })).map
      (fun t => (t.statusWord, t.errInfo, t.results)) = some (0x00080706#32, 2#32, Results.zero) := by decide +kernel

/-- RLI4: a run of 256. -/
theorem test_rleImage_cap :
    (nextOf (exec .rleImage (loaded (List.replicate 256 0x09#8)))).map
      (fun t => (t.dst.readBytes 0 4, t.results.tokens, t.results.outLen)) =
      some ([0x09#8, 0xFF#8, 0x09#8, 0x01#8], 2#32, 4#32) := by decide +kernel

/-- RLI11: the output does not fit. -/
theorem test_rleImage_overflow :
    (nextOf (exec .rleImage { loaded [5#8, 7#8, 2#8] with dstOff := 4092#32 })).map
      (fun t => (t.statusWord, t.results.outLen, t.results.tokens, t.dst.cells)) =
      some (0x00090006#32, 6#32, 3#32, []) := by decide +kernel

/-- W4, RLA1: the document's audio example. -/
theorem test_rleAudio_example :
    (nextOf (exec .rleAudio (loaded [0x64#8, 0#8, 0x64#8, 0#8, 0xCE#8, 0xFF#8]))).map
      (fun t => (t.dst.readBytes 0 6, t.results.tokens)) =
      some ([0x64#8, 0x00#8, 0x02#8, 0xCE#8, 0xFF#8, 0x01#8], 2#32) := by decide +kernel

/-- RLA4: samples whose low bytes match differ. -/
theorem test_rleAudio_whole_sample :
    (nextOf (exec .rleAudio (loaded [0xFF#8, 0xFF#8, 0xFF#8, 0#8, 0xFF#8, 0xFF#8]))).map
      (fun t => t.dst.readBytes 0 9) =
      some [0xFF#8, 0xFF#8, 1#8, 0xFF#8, 0#8, 1#8, 0xFF#8, 0xFF#8, 1#8] := by decide +kernel

/-- RLV1. -/
theorem test_rleVideo_two_frames :
    (nextOf (exec .rleVideo { loaded [1#8, 1#8, 2#8, 2#8, 7#8, 7#8, 7#8, 7#8] with frameLen := 4#32 })).map
      (fun t => (t.dst.readBytes 0 14, t.results.tokens, t.results.frames)) =
      some ([0#8, 0#8, 0#8, 2#8, 1#8, 2#8, 2#8, 2#8, 0#8, 0#8, 0#8, 1#8, 7#8, 4#8], 3#32, 2#32) := by decide +kernel

/-- RLV6: 3 does not divide 8. -/
theorem test_rleVideo_bad_length :
    (nextOf (exec .rleVideo { loaded (List.replicate 8 1#8) with frameLen := 3#32 })).map
      (fun t => (t.statusWord, t.results)) = some (0x00070006#32, Results.zero) := by decide +kernel

/-- MEM1, MEM2: little-endian stores. -/
theorem test_port_little_endian :
    (nextOf (portAccess (.write 0x01000004#32 .half 0x0000FFCE#32) State.reset)).map (fun t => t.src.cells) =
      some [(4, 0xCE#8), (5, 0xFF#8)] := by decide +kernel

/-- MEM3, MEM4, MEM6, MEM7, MEM10, MEM11: the refused accesses. -/
theorem test_port_refusals :
    [faultOf (portAccess (.read 0x02000001#32 .half) State.reset),
     faultOf (portAccess (.write 0x01000FFE#32 .word 0#32) State.reset),
     faultOf (portAccess (.read 0x00000014#32 .byte) State.reset),
     faultOf (portAccess (.read 0x00000016#32 .word) State.reset),
     faultOf (portAccess (.read 0x00001000#32 .word) State.reset),
     faultOf (portAccess (.read 0x01001000#32 .word) State.reset),
     faultOf (portAccess (.read 0x03000000#32 .word) State.reset),
     faultOf (portAccess (.write 0x00000024#32 .word 1#32) (busyWith 1#32 State.reset))] =
      [some .misaligned, some .misaligned, some .narrowRegister, some .misaligned, some .unmapped, some .beyondRegion,
       some .unmapped, some .busyLocked] := by decide +kernel

/-- MEM5: the last byte of SRC is admitted, and a word access that ends past it is not. -/
theorem test_port_last_byte :
    (nextOf (portAccess (.write 0x01000FFF#32 .byte 0x7F#32) State.reset)).map (fun t => t.src.cells) =
        some [(4095, 0x7F#8)] ∧
      faultOf (portAccess (.read 0x01001000#32 .word) State.reset) = some .beyondRegion := by decide +kernel

/-- MEM14: bits 31:8 of FT_SEL are RAZ/WI. -/
theorem test_port_masked_register :
    (nextOf (portAccess (.write 0x00000050#32 .word 0x00000161#32) State.reset)).map (regValue .ftSel) =
      some 0x00000061#32 := by decide +kernel

/-- RST5: SRST together with IRQ_EN leaves IRQ_EN 0. -/
theorem test_port_soft_reset :
    (nextOf (portAccess (.write 0x00000010#32 .word 0x00000003#32) { codedAbra abra with irqEn := true })).map
      (fun t => (t.irqEn, t.statusWord, t.src == (codedAbra abra).src)) = some (false, 0#32, true) := by decide +kernel

/-- P7, run B: a write of SRC_LEN before the completion is refused and the machine goes on. -/
theorem test_step_write_while_busy :
    (nextOf (step { busyWith 1#32 (loaded abra) with
        inbox := [.access (.write 0x00000024#32 .word 2#32), .engine] })).map (fun t => (t.srcLen, t.resp, t.seq)) =
      some (11#32, some .busError, .busy) := by decide +kernel

/-! ### Part 4: witnesses: a state and operands that meet all the hypotheses of each statement together, each clause at a
boundary of its range. A statement that is not named here has no hypothesis. -/

/-- "abracadabra" at the very end of SRC. -/
def atEnd : State :=
  { State.reset with src := State.reset.src.writeBytes 4085 abra, srcOff := 4085#32, srcLen := 11#32 }

/-- The invariant holds of a machine with all three tables valid. -/
theorem witness_coherent_coded : Coherent (codedAbra abra) where
  paramsLegal := by decide +kernel
  srcWf := by decide +kernel
  srcWithin := by decide +kernel
  srcSpans := rfl
  dstWf := by decide +kernel
  dstWithin := by decide +kernel
  drawsTaken := by decide +kernel
  busyQuiet := by decide +kernel
  ftEntries := by decide +kernel
  ctEntries := by decide +kernel
  ftCounts := fun _ => ⟨0x61#8, by decide +kernel⟩
  ftTotal := by decide +kernel
  treeOfFreq := fun _ => ⟨rfl, by decide +kernel⟩
  codesOfTree := fun _ => ⟨rfl, by decide +kernel⟩

/-- The invariant holds of a BUSY machine with all three tables valid. -/
theorem witness_coherent_busy (w : Word) : Coherent (busyWith w (codedAbra abra)) :=
  { witness_coherent_coded with busyQuiet := fun _ => ⟨rfl, rfl, rfl⟩ }

/-- The invariant holds of a machine whose tree is a single leaf. -/
theorem witness_coherent_leaf : Coherent (codedLeaf abra) where
  paramsLegal := by decide +kernel
  srcWf := by decide +kernel
  srcWithin := by decide +kernel
  srcSpans := rfl
  dstWf := by decide +kernel
  dstWithin := by decide +kernel
  drawsTaken := by decide +kernel
  busyQuiet := by decide +kernel
  ftEntries := by decide +kernel
  ctEntries := by decide +kernel
  ftCounts := fun _ => ⟨0x61#8, by decide +kernel⟩
  ftTotal := by decide +kernel
  treeOfFreq := fun _ => ⟨rfl, by decide +kernel⟩
  codesOfTree := fun _ => ⟨rfl, by decide +kernel⟩

theorem witness_StepRunsTheDecodedCommand :
    (busyWith 2#32 (loaded abra)).seq = .busy ∧ decode (busyWith 2#32 (loaded abra)).cmd = .ok .freqCount ∧
    (busyWith 2#32 (loaded abra)).inbox = [] ∧
    (State.withCommand 2#32 (loaded abra)).seq = .busy ∧
    decode (State.withCommand 2#32 (loaded abra)).cmd = .ok .freqCount ∧
    (State.withCommand 2#32 (loaded abra)).inbox = [.engine] := by decide +kernel

theorem witness_StepPerformsTheOldestEvent :
    ({ State.reset with inbox := [.access (.read 0#32 .word)] }).inbox = [.access (.read 0#32 .word)] ∧
    ({ State.reset with inbox := [.powerOn] }).inbox = [.powerOn] ∧
    ({ State.reset with inbox := [.engine] }).seq = .idle ∧ ({ State.reset with inbox := [.engine] }).inbox = [.engine] ∧
    State.reset.seq = .idle ∧ State.reset.inbox = [] := by decide +kernel

/-- With an access that is no reset before the engine's turn, and with an empty schedule. -/
theorem witness_BusyCommandCompletesWithStableInputs :
    ∀ l ∈ [[], [Event.access (.write 0x00000010#32 .word 1#32), .access (.read 0x00000014#32 .word), .engine]],
      ({ busyWith 1#32 (loaded abra) with inbox := l }).seq = .busy ∧
      ∀ e ∈ ({ busyWith 1#32 (loaded abra) with inbox := l }).inbox, isReset e = false := by decide +kernel

/-- Both reasons, with an empty schedule and with the engine's turn at its head. -/
theorem witness_IllegalWordCompletesWithIllegalCmd :
    (busyWith 0x101#32 State.reset).seq = .busy ∧ (busyWith 0x101#32 State.reset).inbox = [] ∧
    decode (busyWith 0x101#32 State.reset).cmd = .error .reservedBits ∧
    decode (busyWith 0x13#32 State.reset).cmd = .error .undefinedOpcode ∧
    (State.withCommand 0x13#32 State.reset).seq = .busy ∧
    (State.withCommand 0x13#32 State.reset).inbox = .engine :: [] ∧
    decode (State.withCommand 0x13#32 State.reset).cmd = .error .undefinedOpcode := by decide +kernel

/-- The least and the greatest legal sizes. -/
theorem witness_InvariantHoldsAtReset :
    ({ srcSize := 1, dstSize := 1 } : Params).wf = true ∧
    ({ srcSize := 16777216, dstSize := 16777216 } : Params).wf = true := by decide

theorem witness_EveryStepKeepsTheInvariant :
    Coherent (busyWith 1#32 (codedAbra abra)) ∧ (nextOf (step (busyWith 1#32 (codedAbra abra)))).isSome = true :=
  ⟨witness_coherent_busy _, by decide +kernel⟩

theorem witness_PowerOnRegisterValues :
    ({ srcSize := 1, dstSize := 16777216 } : Params).wf = true ∧ Reg.status ≠ .id ∧ Reg.status ≠ .version ∧
    Reg.status ≠ .srcSize ∧ Reg.status ≠ .dstSize := by decide

theorem witness_ResetInputRestartsTheMachine :
    ({ busyWith 1#32 (loaded abra) with inbox := [.powerOn, .engine] }).inbox = .powerOn :: [.engine] := by
  decide +kernel

/-- IDLE, BUSY with a command that writes no DST, and BUSY with a word that is no command; SRST with and without bit 0. -/
theorem witness_SoftResetReturnsEveryRegister :
    (0x00000002#32).getLsbD 1 = true ∧ (0x00000003#32).getLsbD 1 = true ∧ (codedAbra abra).seq = .idle ∧
    (busyWith 2#32 (codedAbra abra)).seq = .busy ∧
    decode (busyWith 2#32 (codedAbra abra)).cmd = .ok .freqCount ∧ writesDst .freqCount = false ∧
    decode (busyWith 6#32 (codedAbra abra)).cmd = .error .undefinedOpcode := by decide +kernel

/-- Each of the nine commands and an illegal word in flight. -/
theorem witness_AbortDrawsTheOutputRange :
    (0x00000002#32).getLsbD 1 = true ∧
    (∀ i ∈ [Instr.huffEncode, .bitPack, .rleImage, .rleAudio, .rleVideo, .nop, .freqCount, .treeBuild, .codeGen],
      ({ busyWith (encode i) (loaded abra) with dstOff := 2#32 }).seq = .busy ∧
      decode ({ busyWith (encode i) (loaded abra) with dstOff := 2#32 }).cmd = .ok i) ∧
    decode (busyWith 0x101#32 (loaded abra)).cmd = .error .reservedBits := by decide +kernel

theorem witness_AcceptanceStoresTheWordAndGoesBusy :
    (codedAbra abra).seq = .idle ∧ (busyWith 1#32 (codedAbra abra)).seq = .busy := by decide +kernel

theorem witness_AcknowledgeClearsOnlyDone :
    Coherent (busyWith 1#32 (codedAbra abra)) ∧ (busyWith 1#32 (codedAbra abra)).seq = .busy :=
  ⟨witness_coherent_busy _, rfl⟩

theorem witness_InterruptIsDoneAndEnabled :
    (∃ t, exec .nop { State.reset with irqEn := true } = .next t ∧ t.irq = true) ∧
    (0x00000001#32).getLsbD 1 = false ∧ (0x00000002#32).getLsbD 1 = true ∧
    ({ State.reset with irqEn := true }).seq = .idle ∧
    ({ State.reset with inbox := [.powerOn] }).inbox = [.powerOn] :=
  ⟨⟨_, rfl, by decide +kernel⟩, by decide +kernel⟩

/-- The first and the last admitted access of each region, and accesses one past them. -/
theorem witness_IdlePortAdmitsExactlyTheMap :
    State.reset.params.wf = true ∧ State.reset.seq = .idle ∧
    (∀ p ∈ [(0x00000000#32, Width.word), (0x00000FFC#32, .word), (0x01000000#32, .byte), (0x01000FFF#32, .byte),
        (0x02000000#32, .word), (0x02000FFE#32, .half)], Admitted State.reset.params p.1 p.2) ∧
    (∀ p ∈ [(0x00001000#32, Width.word), (0x00000000#32, .half), (0x01001000#32, .byte), (0x02000FFF#32, .half)],
      ¬ Admitted State.reset.params p.1 p.2) := by
  simp only [Admitted]
  decide +kernel

theorem witness_BusyPortLocksTheMachine :
    (busyWith 1#32 State.reset).seq = .busy ∧
    ((0x00000FFC#32 : Word).toNat < 0x1000 ∧ (0x00000FFC#32 : Word).toNat % 4 = 0 ∧
      (0x00000FFC#32 : Word) ≠ 0x00000010#32 ∧ (0x00000FFC#32 : Word) ≠ 0x00000014#32) ∧
    ((0x00000010#32 : Word).toNat < 0x1000 ∧ (0x00000010#32 : Word).toNat % 4 = 0) ∧
    ((0x00000014#32 : Word).toNat < 0x1000 ∧ (0x00000014#32 : Word).toNat % 4 = 0) ∧
    ((0x00000014#32 : Word).toNat < 0x1000 ∧ Width.half ≠ .word) ∧
    ((0x00000FFF#32 : Word).toNat < 0x1000 ∧ (0x00000FFF#32 : Word).toNat % 4 ≠ 0) ∧
    0x1000 ≤ (0x00001000#32 : Word).toNat ∧ 0x1000 ≤ (0x01000000#32 : Word).toNat := by decide +kernel

theorem witness_RefusedAccessSetsNoState :
    portAccess (.read 0x02000001#32 .half) State.reset = .fault .misaligned ∧
    portAccess (.write 0x00000018#32 .word 0#32) (busyWith 1#32 State.reset) = .fault .busyLocked := ⟨rfl, rfl⟩

/-- Each width at the last offset that admits it. -/
theorem witness_SrcWindowStoresLittleEndian :
    State.reset.params.wf = true ∧ State.reset.seq = .idle ∧
    ∀ p ∈ [(Width.byte, 4095), (Width.half, 4094), (Width.word, 4092), (Width.word, 0)],
      p.2 % widthBytes p.1 = 0 ∧ p.2 + widthBytes p.1 ≤ State.reset.params.srcSize := by decide +kernel

/-- Each width at the last offset that admits it. -/
theorem witness_DstWindowStoresLittleEndian :
    State.reset.params.wf = true ∧ State.reset.seq = .idle ∧
    ∀ p ∈ [(Width.byte, 4095), (Width.half, 4094), (Width.word, 4092), (Width.word, 0)],
      p.2 % widthBytes p.1 = 0 ∧ p.2 + widthBytes p.1 ≤ State.reset.params.dstSize := by decide +kernel

/-- IDLE, and for CTRL BUSY too; a value whose write-action bit is 0 and every other bit 1. -/
theorem witness_WritableRegistersReadBackMasked :
    State.reset.seq = .idle ∧ (busyWith 1#32 State.reset).seq = .busy ∧ (0xFFFFFFFD#32).getLsbD 1 = false := by
  decide +kernel

/-- The first and the last offset of each range. -/
theorem witness_ReadOnlyAndReservedIgnoreWrites :
    State.reset.seq = .idle ∧
    ∀ off ∈ [0x000, 0x00C, 0x01C, 0x030, 0x04C, 0x054, 0x05C, 0x07C, 0x084, 0x08C, 0xFFC],
      off % 4 = 0 ∧
      (off ≤ 0x00C ∨ off = 0x01C ∨ (0x030 ≤ off ∧ off ≤ 0x04C) ∨ off = 0x054 ∨ (0x05C ≤ off ∧ off ≤ 0x07C) ∨
        (0x084 ≤ off ∧ off < 0x1000)) := by decide +kernel

/-- The first and the last offset of each clause. -/
theorem witness_BusyReadsDrawOnlyWhatIsUnstable :
    Coherent (busyWith 1#32 (codedAbra abra)) ∧ (busyWith 1#32 (codedAbra abra)).seq = .busy ∧
    (∀ off ∈ [0x000, 0x014, 0x030, 0x048, 0x04C, 0x05C, 0x07C, 0x080, 0x084, 0x08C, 0xFFC],
      off < 0x1000 ∧ off % 4 = 0) :=
  ⟨witness_coherent_busy _, by decide +kernel⟩

theorem witness_IdleReadsHaveNoSideEffect :
    State.reset.seq = .idle ∧ ∃ t, portAccess (.read 0x00000FFC#32 .word) State.reset = .next t := ⟨rfl, _, rfl⟩

/-- A machine that is IDLE with all tables valid, and one that is IDLE with an error recorded. -/
theorem witness_RegisterReadsShowTheState :
    (codedAbra abra).seq = .idle ∧ ({ State.reset with errCode := .dstOverflow }).seq = .idle := by decide +kernel

theorem witness_FrequencyReadback :
    (codedAbra abra).seq = .idle ∧ (codedAbra abra).ftValid = true ∧ State.reset.seq = .idle ∧
    State.reset.ftValid = false := by decide +kernel

theorem witness_CodeReadback :
    31 ≤ 31 ∧ (codedAbra abra).ctValid = true ∧
    (codeOf (codedAbra abra).ct (codedAbra abra).ctSel).length ≤ 255 ∧ State.reset.ctValid = false := by
  decide +kernel

/-- A leaf, an internal node (the root), the first index past the root, and an invalid tree; for TREE_ROOT a tree of
several leaves and a tree of one. -/
theorem witness_NodeReadback :
    (codedAbra abra).treeValid = true ∧
    (codedAbra abra).nodes[({ codedAbra abra with nodeSel := 4#9 }).nodeSel.toNat]? = some (.leaf 0x72#8 2#32) ∧
    (codedAbra abra).nodes[({ codedAbra abra with nodeSel := 8#9 }).nodeSel.toNat]? =
      some (.internal 0#9 7#9 11#32) ∧
    (codedAbra abra).nodes.length ≤ ({ codedAbra abra with nodeSel := 9#9 }).nodeSel.toNat ∧
    State.reset.treeValid = false ∧
    (Coherent (codedAbra abra) ∧ (codedAbra abra).treeRootValue = 8#32) ∧
    (Coherent (codedLeaf abra) ∧ (codedLeaf abra).treeValid = true ∧ (codedLeaf abra).treeRootValue = 0#32) :=
  ⟨by decide +kernel, by decide +kernel, by decide +kernel, by decide +kernel, by decide +kernel,
    ⟨witness_coherent_coded, by decide +kernel⟩, witness_coherent_leaf, by decide +kernel⟩

/-- The input ends with the last byte of SRC. -/
theorem witness_FreqCountCountsEverySymbol :
    atEnd.params.wf = true ∧ atEnd.srcOff.toNat + atEnd.srcLen.toNat = atEnd.params.srcSize ∧
    0 < atEnd.srcLen.toNat := by decide +kernel

theorem witness_TreeBuildMergesTheLeastTwo :
    (countedAbra []).ftValid = true ∧ ∃ v, freqOf (countedAbra []).ft v ≠ 0#32 :=
  ⟨by decide +kernel, 0x61#8, by decide +kernel⟩

/-- A tree of several leaves and a tree of one; a present and an absent symbol. -/
theorem witness_CodeGenRecordsThePathToEachLeaf :
    (Coherent (codedAbra abra) ∧ (codedAbra abra).treeValid = true ∧ (codedAbra abra).nodes.length ≠ 1 ∧
      freqOf (codedAbra abra).ft 0x62#8 ≠ 0#32 ∧ freqOf (codedAbra abra).ft 0x7A#8 = 0#32) ∧
    (Coherent (codedLeaf abra) ∧ (codedLeaf abra).treeValid = true ∧
      (codedLeaf abra).nodes.length = 1) :=
  ⟨⟨witness_coherent_coded, by decide +kernel⟩, witness_coherent_leaf, by decide +kernel⟩

/-- The four output bytes of BPK1 end with the last byte of DST. -/
theorem witness_BitPackWritesTheCodesInOrder :
    (codedAbra abra).ctValid = true ∧ (codedAbra abra).srcOff.toNat + (codedAbra abra).srcLen.toNat ≤ 4096 ∧
    0 < (codedAbra abra).srcLen.toNat ∧
    (∀ b ∈ ({ codedAbra abra with dstOff := 4092#32 }).input, codeOf (codedAbra abra).ct b ≠ []) ∧
    ({ codedAbra abra with dstOff := 4092#32 }).dstOff.toNat +
      (1 + (((codedAbra abra).input.flatMap (codeOf (codedAbra abra).ct)).length +
        (8 - ((codedAbra abra).input.flatMap (codeOf (codedAbra abra).ct)).length % 8)) / 8) = 4096 := by
  decide +kernel

/-- The four output bytes of HUF2 end with the last byte of DST. -/
theorem witness_HuffEncodeWritesTheComposedStream :
    (loaded abra).srcOff.toNat + (loaded abra).srcLen.toNat ≤ (loaded abra).params.srcSize ∧
    0 < (loaded abra).srcLen.toNat ∧
    ({ loaded abra with dstOff := 4092#32 }).dstOff.toNat +
      (1 + (((loaded abra).input.flatMap (codeOf (gen (build (freq (loaded abra).input))))).length +
        (8 - ((loaded abra).input.flatMap (codeOf (gen (build (freq (loaded abra).input))))).length % 8)) / 8) =
      (loaded abra).params.dstSize := by decide +kernel

/-- W1's samples. -/
def w1 : List Byte := [5#8, 5#8, 5#8, 7#8, 7#8, 2#8]

theorem witness_w1_tokens : EncodesRuns w1 [(5#8, 3), (7#8, 2), (2#8, 1)] :=
  ⟨by decide, by decide, by simp [MaximalRuns]⟩

/-- W2: a run split at the cap is a maximal token list too. -/
theorem witness_w2_tokens : EncodesRuns (List.replicate 300 9#8) [(9#8, 255), (9#8, 45)] :=
  ⟨by decide +kernel, by decide, by simp [MaximalRuns]⟩

/-- The six output bytes of W1 end with the last byte of DST. -/
theorem witness_RleImageWritesValueCountPairs :
    (loaded w1).srcOff.toNat + (loaded w1).srcLen.toNat ≤ (loaded w1).params.srcSize ∧ 0 < (loaded w1).srcLen.toNat ∧
    EncodesRuns ({ loaded w1 with dstOff := 4090#32 }).input [(5#8, 3), (7#8, 2), (2#8, 1)] ∧
    ({ loaded w1 with dstOff := 4090#32 }).dstOff.toNat + 2 * [(5#8, 3), (7#8, 2), (2#8, 1)].length =
      (loaded w1).params.dstSize :=
  ⟨by decide +kernel, by decide +kernel,
    (show ({ loaded w1 with dstOff := 4090#32 }).input = w1 by decide +kernel) ▸ witness_w1_tokens, by decide +kernel⟩

/-- W4's samples, little-endian. -/
def w4 : List Byte := [0x64#8, 0x00#8, 0x64#8, 0x00#8, 0xCE#8, 0xFF#8]

/-- The six output bytes of W4 end with the last byte of DST. -/
theorem witness_RleAudioWritesValueCountTriples :
    (loaded w4).srcOff.toNat + (loaded w4).srcLen.toNat ≤ (loaded w4).params.srcSize ∧ 0 < (loaded w4).srcLen.toNat ∧
    2 * [0x0064#16, 0x0064#16, 0xFFCE#16].length = (loaded w4).srcLen.toNat ∧
    (∀ k, k < 3 → ∀ w, [0x0064#16, 0x0064#16, 0xFFCE#16][k]? = some w → w.toNat =
      ((loaded w4).src.read ((loaded w4).srcOff.toNat + 2 * k)).toNat +
        256 * ((loaded w4).src.read ((loaded w4).srcOff.toNat + 2 * k + 1)).toNat) ∧
    EncodesRuns [0x0064#16, 0x0064#16, 0xFFCE#16] [(0x0064#16, 2), (0xFFCE#16, 1)] ∧
    ({ loaded w4 with dstOff := 4090#32 }).dstOff.toNat + 3 * [(0x0064#16, 2), (0xFFCE#16, 1)].length =
      (loaded w4).params.dstSize := by
  refine ⟨by decide +kernel, by decide +kernel, by decide +kernel, ?_, ⟨by decide, by decide, by simp [MaximalRuns]⟩,
    by decide +kernel⟩
  intro k hk w hw
  interval_cases k <;> simp at hw <;> subst hw <;> decide +kernel

/-- RLV1's frames. -/
def v1 : State := { loaded [1#8, 1#8, 2#8, 2#8, 7#8, 7#8, 7#8, 7#8] with frameLen := 4#32, dstOff := 4082#32 }

/-- The fourteen output bytes of RLV1 end with the last byte of DST. -/
theorem witness_RleVideoWritesPrefixedSegments :
    v1.srcOff.toNat + v1.srcLen.toNat ≤ v1.params.srcSize ∧ 0 < v1.srcLen.toNat ∧ 0 < v1.frameLen.toNat ∧
    [[1#8, 1#8, 2#8, 2#8], [7#8, 7#8, 7#8, 7#8]].flatten = v1.input ∧
    (∀ fr ∈ [[1#8, 1#8, 2#8, 2#8], [7#8, 7#8, 7#8, 7#8]], fr.length = v1.frameLen.toNat) ∧
    List.Forall₂ EncodesRuns [[1#8, 1#8, 2#8, 2#8], [7#8, 7#8, 7#8, 7#8]] [[(1#8, 2), (2#8, 2)], [(7#8, 4)]] ∧
    v1.dstOff.toNat + (4 * 2 + 2 * ([[(1#8, 2), (2#8, 2)], [(7#8, 4)]].map List.length).sum) = v1.params.dstSize :=
  ⟨by decide +kernel, by decide +kernel, by decide +kernel, by decide +kernel, by decide +kernel,
    .cons ⟨by decide, by decide, by simp [MaximalRuns]⟩ (.cons ⟨by decide, by decide, by simp [MaximalRuns]⟩ .nil),
    by decide +kernel⟩

/-- One past the end of SRC, also by a sum past 2^32, and an empty input at the very end of SRC, for each command. -/
theorem witness_InputErrorsInOrder :
    (∀ i ∈ [Instr.huffEncode, .freqCount, .bitPack, .rleImage, .rleAudio, .rleVideo], readsSrc i = true) ∧
    (codedAbra abra).ctValid = true ∧
    (codedAbra abra).params.srcSize < ({ codedAbra abra with srcOff := 4086#32 }).srcOff.toNat +
      (codedAbra abra).srcLen.toNat ∧
    (codedAbra abra).params.srcSize < ({ codedAbra abra with srcOff := 0xFFFFFFFF#32 }).srcOff.toNat +
      (codedAbra abra).srcLen.toNat ∧
    ({ codedAbra abra with srcOff := 4096#32, srcLen := 0#32 }).srcOff.toNat +
      ({ codedAbra abra with srcOff := 4096#32, srcLen := 0#32 }).srcLen.toNat ≤ 4096 ∧
    ({ codedAbra abra with srcOff := 4096#32, srcLen := 0#32 }).srcLen = 0#32 := by decide +kernel

theorem witness_UnitsTooEarlyReportTheMissingTable :
    State.reset.ftValid = false ∧ State.reset.treeValid = false ∧ State.reset.ctValid = false := by decide

/-- RLA5 (an odd length), RLV7 (FRAME_LEN 0), RLV6 (FRAME_LEN 3, SRC_LEN 8). -/
theorem witness_BadLengthOfAudioAndVideo :
    (∀ n ∈ [5, 8], (loaded (List.replicate n 1#8)).srcOff.toNat + (loaded (List.replicate n 1#8)).srcLen.toNat ≤
        (loaded (List.replicate n 1#8)).params.srcSize ∧ 0 < (loaded (List.replicate n 1#8)).srcLen.toNat) ∧
    (loaded (List.replicate 5 1#8)).srcLen.toNat % 2 = 1 ∧ (loaded (List.replicate 8 1#8)).frameLen = 0#32 ∧
    ¬ ({ loaded (List.replicate 8 1#8) with frameLen := 3#32 }).frameLen.toNat ∣
      (loaded (List.replicate 8 1#8)).srcLen.toNat := by decide +kernel

/-- BPK3: "abz" after the tables of "abracadabra"; the missing byte is the last one. -/
theorem witness_MissingCodeNamesTheFirstPosition :
    (codedAbra [0x61#8, 0x62#8, 0x7A#8]).ctValid = true ∧
    (codedAbra [0x61#8, 0x62#8, 0x7A#8]).srcOff.toNat + (codedAbra [0x61#8, 0x62#8, 0x7A#8]).srcLen.toNat ≤ 4096 ∧
    2 < (codedAbra [0x61#8, 0x62#8, 0x7A#8]).srcLen.toNat ∧
    codeOf (codedAbra [0x61#8, 0x62#8, 0x7A#8]).ct
      ((codedAbra [0x61#8, 0x62#8, 0x7A#8]).src.read ((codedAbra [0x61#8, 0x62#8, 0x7A#8]).srcOff.toNat + 2)) = [] ∧
    ∀ j, j < 2 → codeOf (codedAbra [0x61#8, 0x62#8, 0x7A#8]).ct
      ((codedAbra [0x61#8, 0x62#8, 0x7A#8]).src.read ((codedAbra [0x61#8, 0x62#8, 0x7A#8]).srcOff.toNat + j)) ≠ [] := by
  decide +kernel

/-- Of each command: the output of W1, W4, RLV1, BPK1 and HUF2 ends one byte past DST; the
other hypotheses of the audio and the video clause stand in the two theorems after this one. -/
theorem witness_OverflowWritesNothingAndReportsTheLength :
    ((loaded w1).srcOff.toNat + (loaded w1).srcLen.toNat ≤ (loaded w1).params.srcSize ∧ 0 < (loaded w1).srcLen.toNat ∧
      EncodesRuns ({ loaded w1 with dstOff := 4091#32 }).input [(5#8, 3), (7#8, 2), (2#8, 1)] ∧
      (loaded w1).params.dstSize < ({ loaded w1 with dstOff := 4091#32 }).dstOff.toNat +
        2 * [(5#8, 3), (7#8, 2), (2#8, 1)].length) ∧
    ((loaded w4).params.dstSize < ({ loaded w4 with dstOff := 4091#32 }).dstOff.toNat +
      3 * [(0x0064#16, 2), (0xFFCE#16, 1)].length) ∧
    (v1.params.dstSize < ({ v1 with dstOff := 4083#32 }).dstOff.toNat +
      (4 * 2 + 2 * ([[(1#8, 2), (2#8, 2)], [(7#8, 4)]].map List.length).sum)) ∧
    ((codedAbra abra).ctValid = true ∧ (∀ b ∈ (codedAbra abra).input, codeOf (codedAbra abra).ct b ≠ []) ∧
      (codedAbra abra).params.dstSize < ({ codedAbra abra with dstOff := 4093#32 }).dstOff.toNat +
        (1 + (((codedAbra abra).input.flatMap (codeOf (codedAbra abra).ct)).length +
          (8 - ((codedAbra abra).input.flatMap (codeOf (codedAbra abra).ct)).length % 8)) / 8)) ∧
    ((loaded abra).params.dstSize < ({ loaded abra with dstOff := 4093#32 }).dstOff.toNat +
      (1 + (((loaded abra).input.flatMap (codeOf (gen (build (freq (loaded abra).input))))).length +
        (8 - ((loaded abra).input.flatMap (codeOf (gen (build (freq (loaded abra).input))))).length % 8)) / 8)) :=
  ⟨⟨by decide +kernel, by decide +kernel,
    (show ({ loaded w1 with dstOff := 4091#32 }).input = w1 by decide +kernel) ▸ witness_w1_tokens, by decide +kernel⟩,
    by decide +kernel, by decide +kernel, by decide +kernel, by decide +kernel⟩

theorem witness_OverflowWritesNothingAndReportsTheLength_audio :
    let s := { loaded w4 with dstOff := 4091#32 }
    s.srcOff.toNat + s.srcLen.toNat ≤ s.params.srcSize ∧ 0 < s.srcLen.toNat ∧
    2 * [0x0064#16, 0x0064#16, 0xFFCE#16].length = s.srcLen.toNat ∧
    (∀ k, k < 3 → ∀ w, [0x0064#16, 0x0064#16, 0xFFCE#16][k]? = some w → w.toNat =
      (s.src.read (s.srcOff.toNat + 2 * k)).toNat + 256 * (s.src.read (s.srcOff.toNat + 2 * k + 1)).toNat) ∧
    EncodesRuns [0x0064#16, 0x0064#16, 0xFFCE#16] [(0x0064#16, 2), (0xFFCE#16, 1)] ∧
    s.params.dstSize < s.dstOff.toNat + 3 * [(0x0064#16, 2), (0xFFCE#16, 1)].length :=
  have h := witness_RleAudioWritesValueCountTriples
  ⟨h.1, h.2.1, h.2.2.1, h.2.2.2.1, h.2.2.2.2.1, by decide +kernel⟩

theorem witness_OverflowWritesNothingAndReportsTheLength_video :
    let s := { v1 with dstOff := 4083#32 }
    s.srcOff.toNat + s.srcLen.toNat ≤ s.params.srcSize ∧ 0 < s.srcLen.toNat ∧ 0 < s.frameLen.toNat ∧
    [[1#8, 1#8, 2#8, 2#8], [7#8, 7#8, 7#8, 7#8]].flatten = s.input ∧
    (∀ fr ∈ [[1#8, 1#8, 2#8, 2#8], [7#8, 7#8, 7#8, 7#8]], fr.length = s.frameLen.toNat) ∧
    List.Forall₂ EncodesRuns [[1#8, 1#8, 2#8, 2#8], [7#8, 7#8, 7#8, 7#8]] [[(1#8, 2), (2#8, 2)], [(7#8, 4)]] ∧
    s.params.dstSize < s.dstOff.toNat + (4 * 2 + 2 * ([[(1#8, 2), (2#8, 2)], [(7#8, 4)]].map List.length).sum) :=
  have h := witness_RleVideoWritesPrefixedSegments
  ⟨h.1, h.2.1, h.2.2.1, by decide +kernel, h.2.2.2.2.1, h.2.2.2.2.2.1, by decide +kernel⟩

/-- P5: the output of "abracadabra" does not fit at 4094; it fits exactly at 4092. -/
theorem witness_HuffOverflowKeepsTheTablesForBitPack :
    Coherent { codedAbra abra with dstOff := 4094#32 } ∧
    ∃ t, exec .huffEncode { codedAbra abra with dstOff := 4094#32 } = .next t ∧ t.errCode = .dstOverflow ∧
      (4092#32 : Word).toNat + t.results.outLen.toNat ≤ ({ codedAbra abra with dstOff := 4094#32 }).params.dstSize :=
  ⟨{ witness_coherent_coded with }, _, rfl, by decide +kernel, by decide +kernel⟩

/-- P5's first BIT_PACK, a MISSING_CODE, and P5's HUFF_ENCODE with an input past SRC. -/
theorem witness_ErrorsArePrecise :
    (∃ t, exec .bitPack (codedAbra [0x7A#8]) = .next t ∧ t.errCode = .missingCode) ∧
    ∃ t, exec .huffEncode { loaded abra with srcOff := 4096#32 } = .next t ∧ t.errCode = .srcRange :=
  ⟨⟨_, rfl, by decide +kernel⟩, _, rfl, by decide +kernel⟩

theorem witness_EachCommandRaisesOnlyItsErrors : ∃ t, exec .rleVideo v1 = .next t ∧ t.errCode = .none :=
  ⟨_, rfl, by decide +kernel⟩

/-- A success and an overflow. -/
theorem witness_RunLengthCommandsFrame :
    v1.params.wf = true ∧ (∃ t, exec .rleVideo v1 = .next t ∧ t.errCode = .none) ∧
    ∃ t, exec .rleImage { loaded w1 with dstOff := 4091#32 } = .next t ∧ t.errCode = .dstOverflow :=
  ⟨by decide +kernel, ⟨_, rfl, by decide +kernel⟩, _, rfl, by decide +kernel⟩

/-- A success of each, and a rejected input. -/
theorem witness_PackingCommandsFrame :
    (codedAbra abra).params.wf = true ∧ (∃ t, exec .bitPack (codedAbra abra) = .next t ∧ t.errCode = .none) ∧
    (∃ t, exec .huffEncode (codedAbra abra) = .next t ∧ t.errCode = .none) ∧
    ∃ t, exec .huffEncode { loaded abra with srcLen := 0#32 } = .next t ∧ t.errCode = .emptyInput :=
  ⟨by decide +kernel, ⟨_, rfl, by decide +kernel⟩, ⟨_, rfl, by decide +kernel⟩, _, rfl, by decide +kernel⟩

theorem witness_NonStoringCommandsFrame :
    ∀ i ∈ [Instr.nop, .freqCount, .treeBuild, .codeGen], (nextOf (exec i (codedAbra abra))).isSome = true := by
  decide +kernel

/-- HUF4: a concatenation of a whole number of bytes, so PAD is 8; HUF2: PAD is 1. -/
theorem witness_PadAccountsForTheLastByte :
    (∃ t, exec .huffEncode (loaded (List.replicate 8 0x61#8)) = .next t ∧ t.errCode = .none ∧ t.results.pad = 8#4) ∧
    (∃ t, exec .bitPack (codedAbra abra) = .next t ∧ t.errCode = .none ∧ t.results.pad = 1#4) ∧
    State.reset.params.wf = true :=
  ⟨⟨_, rfl, by decide +kernel, by decide +kernel⟩, ⟨_, rfl, by decide +kernel, by decide +kernel⟩, by decide +kernel⟩

theorem witness_TreeCountsAreExactAndOwned :
    Coherent (codedAbra abra) ∧ (codedAbra abra).treeValid = true ∧
    (codedAbra abra).nodes[8]? = some (.internal 0#9 7#9 11#32) ∧ 7 + 1 < (codedAbra abra).nodes.length :=
  ⟨witness_coherent_coded, by decide +kernel⟩

theorem witness_CodesArePrefixFree :
    Coherent (codedAbra abra) ∧ (codedAbra abra).ctValid = true ∧ codeOf (codedAbra abra).ct 0x61#8 ≠ [] ∧
    codeOf (codedAbra abra).ct 0x62#8 ≠ [] ∧ (0x61#8 : Byte) ≠ 0x62#8 :=
  ⟨witness_coherent_coded, by decide +kernel⟩

theorem witness_CodeLengthsFillTheTree :
    Coherent (codedAbra abra) ∧ (codedAbra abra).ctValid = true ∧ 2 ≤ (presentSymbols (codedAbra abra).ft).length :=
  ⟨witness_coherent_coded, by decide +kernel⟩

theorem witness_ExactlyTheCountedSymbolsHaveCodes :
    Coherent (codedAbra abra) ∧ (codedAbra abra).ctValid = true ∧ 2 ≤ (presentSymbols (codedAbra abra).ft).length :=
  ⟨witness_coherent_coded, by decide +kernel⟩

theorem witness_HuffEncodeIgnoresEarlierTables :
    atEnd.srcOff.toNat + atEnd.srcLen.toNat ≤ atEnd.params.srcSize ∧ 0 < atEnd.srcLen.toNat := by decide +kernel

theorem witness_HuffEncodeEqualsTheChainOfUnits :
    atEnd.params.wf = true ∧ atEnd.srcOff.toNat + atEnd.srcLen.toNat ≤ atEnd.params.srcSize ∧
    0 < atEnd.srcLen.toNat := by decide +kernel

/-- RLV1 split after its first frame. -/
theorem witness_VideoSegmentsCompose :
    v1.params.wf = true ∧ (∃ t, exec .rleVideo v1 = .next t ∧ t.errCode = .none) ∧ 0 < 4 ∧ 4 < v1.srcLen.toNat ∧
    v1.frameLen.toNat ∣ 4 := ⟨by decide +kernel, ⟨_, rfl, by decide +kernel⟩, by decide +kernel⟩

end Sys2Proof.Tests
end

section
/-! PROOFS. The scope family (spec/00_scope.md): the bytes a command reads (R17). -/

namespace Sys2Proof.Machine

/-- Settles O31, from the length of a run of bytes and the byte at each of its positions (R17). -/
theorem inputIsTheAddressedBytes : Obligations.InputIsTheAddressedBytes := by
  intro s
  refine ⟨s.input_length, fun i hi => ?_⟩
  have hlen : i < s.input.length := s.input_length.symm ▸ hi
  rw [List.getElem?_eq_getElem hlen, s.input_getElem i hlen, State.srcByte]

end Sys2Proof.Machine
end

section
/-! PROOFS. The state family (spec/10_state.md), first part: every step keeps the invariant. One lemma per operation on
the state says that the operation keeps `Coherent`, or what it needs to keep it; the commands, the port and the step are
assembled from these. -/

namespace Sys2Proof.Machine

/-- Both sizes are 1 to 2^24 (R8). -/
theorem Params.wf_iff {p : Params} :
    p.wf = true ↔ (1 ≤ p.srcSize ∧ p.srcSize ≤ Config.maxSize) ∧ 1 ≤ p.dstSize ∧ p.dstSize ≤ Config.maxSize := by
  simp [Params.wf, sizeLegal]

/-! ### The model's own fields -/

theorem Coherent.setInbox {s : State} (h : Coherent s) (rest : List Event) : Coherent (s.setInbox rest) := { h with }

theorem Coherent.respond {s : State} (h : Coherent s) (r : Response) : Coherent (s.respond r) := { h with }

theorem Coherent.takeDraw {s : State} (h : Coherent s) : Coherent s.takeDraw :=
  { h with
    drawsTaken := by
      obtain ⟨hsrc, hdst, hspans⟩ := h.drawsTaken
      exact ⟨Nat.lt_succ_of_lt hsrc, Nat.lt_succ_of_lt hdst, fun p hp => Nat.lt_succ_of_lt (hspans p hp)⟩ }

/-! ### The command life cycle (R280, R281, R284) -/

theorem Coherent.accept {s : State} (h : Coherent s) (v : Word) : Coherent (s.accept v) :=
  { h with busyQuiet := fun _ => ⟨rfl, rfl, rfl⟩ }

theorem Coherent.acknowledge {s : State} (h : Coherent s) : Coherent s.acknowledge :=
  { h with busyQuiet := fun hb => ⟨rfl, (h.busyQuiet hb).2⟩ }

theorem Coherent.finish {s : State} (h : Coherent s) (e : ErrCode) (info : Word) (r : Results) :
    Coherent (s.finish e info r) := { h with busyQuiet := nofun }

theorem Coherent.succeed {s : State} (h : Coherent s) (r : Results) : Coherent (s.succeed r) := h.finish _ _ _

theorem Coherent.raise {s : State} (h : Coherent s) (e : ErrCode) (info : Word) : Coherent (s.raise e info) :=
  h.finish _ _ _

/-! ### The tables (R61, R64, R66) -/

/-- A new FT must be a legal one; the tree and the codes are dropped. -/
theorem Coherent.putFreq {s : State} (h : Coherent s) {table : List Word} (hlen : table.length = 256)
    (hcounts : ∃ v, freqOf table v ≠ 0#32) (htotal : (table.map BitVec.toNat).sum ≤ Config.maxSize) :
    Coherent (s.putFreq table) :=
  { h with
    ftEntries := hlen
    ftCounts := fun _ => hcounts
    ftTotal := fun _ => htotal
    treeOfFreq := nofun
    codesOfTree := nofun }

/-- A new NODE must be the tree of a valid FT; the codes are dropped. -/
theorem Coherent.putTree {s : State} (h : Coherent s) (hft : s.ftValid = true) : Coherent (s.putTree (build s.ft)) :=
  { h with
    treeOfFreq := fun _ => ⟨hft, rfl⟩
    codesOfTree := nofun }

/-- A new CT must hold the codes of a valid NODE. -/
theorem Coherent.putCodes {s : State} (h : Coherent s) (htree : s.treeValid = true) :
    Coherent (s.putCodes (gen s.nodes)) :=
  { h with
    ctEntries := gen_length _
    codesOfTree := fun _ => ⟨htree, rfl⟩ }

/-! ### The memories (R68, R69, R150) -/

theorem Coherent.writeSrc {s : State} (h : Coherent s) {a : Nat} {bs : List Byte}
    (hfits : a + bs.length ≤ s.params.srcSize) : Coherent { s with src := s.src.writeBytes a bs } :=
  { h with
    srcWf := Memory.writeBytes_wf bs h.srcWf a
    srcWithin := Memory.writeBytes_within bs h.srcWithin hfits
    srcSpans := (Memory.writeBytes_spans bs _ _).trans h.srcSpans
    drawsTaken := by simpa using h.drawsTaken }

theorem Coherent.writeDst {s : State} (h : Coherent s) {a : Nat} {bs : List Byte}
    (hfits : a + bs.length ≤ s.params.dstSize) : Coherent { s with dst := s.dst.writeBytes a bs } :=
  { h with
    dstWf := Memory.writeBytes_wf bs h.dstWf a
    dstWithin := Memory.writeBytes_within bs h.dstWithin hfits
    drawsTaken := by simpa using h.drawsTaken }

theorem Coherent.emit {s : State} (h : Coherent s) (r : Results) (out : List Byte) : Coherent (s.emit r out) := by
  obtain ⟨hfits, he⟩ | ⟨-, he⟩ := State.emit_cases r out s
  · exact he ▸ (h.writeDst hfits).succeed r
  · exact he ▸ h.finish _ _ _

/-! ### The resets (R341 to R343) -/

theorem coherent_powerOn {p : Params} (hp : p.wf = true) (n : Nat) : Coherent (State.powerOn p n) where
  paramsLegal := hp
  srcWf := Memory.empty_wf n
  srcWithin := nofun
  srcSpans := rfl
  dstWf := Memory.empty_wf (n + 1)
  dstWithin := nofun
  drawsTaken := by simp
  busyQuiet := nofun
  ftEntries := emptyFreqTable_length
  ctEntries := emptyCodeTable_length
  ftCounts := nofun
  ftTotal := nofun
  treeOfFreq := nofun
  codesOfTree := nofun

theorem Coherent.powerCycle {s : State} (h : Coherent s) : Coherent s.powerCycle :=
  (coherent_powerOn h.paramsLegal s.draws).setInbox s.inbox

/-- The draw an abort puts into DST is the number that the soft reset takes. -/
theorem Coherent.dstAfterAbort {s : State} (h : Coherent s) :
    s.dstAfterAbort.wf ∧ s.dstAfterAbort.within s.params.dstSize ∧ s.dstAfterAbort.base < s.draws + 1 ∧
      ∀ p ∈ s.dstAfterAbort.spans, p.2 < s.draws + 1 := by
  obtain ⟨-, hbase, hspans⟩ := h.drawsTaken
  cases ha : s.abortsOutput with
  | false =>
    rw [State.dstAfterAbort_of_none ha]
    exact ⟨h.dstWf, h.dstWithin, by omega, fun p hp => Nat.lt_succ_of_lt (hspans p hp)⟩
  | true =>
    rw [State.dstAfterAbort_of_abort ha]
    refine ⟨Memory.scramble_wf h.dstWf _ _, Memory.scramble_within h.dstWithin _ _, Nat.lt_succ_of_lt hbase, ?_⟩
    intro p hp
    obtain rfl | hp := List.mem_cons.mp hp
    · exact Nat.lt_succ_self _
    · exact Nat.lt_succ_of_lt (hspans p (List.mem_filter.mp hp).1)

theorem Coherent.softReset {s : State} (h : Coherent s) : Coherent s.softReset := by
  obtain ⟨hwf, hwithin, hbase, hspans⟩ := h.dstAfterAbort
  exact
    { coherent_powerOn h.paramsLegal s.draws with
      srcWf := h.srcWf
      srcWithin := h.srcWithin
      srcSpans := h.srcSpans
      dstWf := hwf
      dstWithin := hwithin
      drawsTaken := ⟨Nat.lt_succ_of_lt h.drawsTaken.1, hbase, hspans⟩ }

/-! ### The commands (R281) -/

/-- An input that the checks admit is no longer than the largest memory (R8, R304). -/
theorem Coherent.input_length_le {s : State} (h : Coherent s) (hin : s.inputError = none) :
    s.input.length ≤ Config.maxSize := by
  have hrange := (State.inputError_eq_none.mp hin).1
  obtain ⟨⟨-, hsize⟩, -⟩ := Params.wf_iff.mp h.paramsLegal
  rw [State.input_length]
  omega

/-- A non-empty input of less than 2^32 bytes counts its first symbol (R61, R160). -/
theorem freq_counts_something {input : List Byte} (hne : input ≠ []) (hlen : input.length < 2 ^ 32) :
    ∃ v, freqOf (freq input) v ≠ 0#32 := by
  have hpos : 0 < input.count (input.head hne) := List.count_pos_iff.mpr (List.head_mem hne)
  have hle : input.count (input.head hne) ≤ input.length := List.count_le_length
  refine ⟨input.head hne, fun h0 => ?_⟩
  rw [freqOf_freq] at h0
  have h0 := congrArg BitVec.toNat h0
  simp only [BitVec.toNat_ofNat] at h0
  omega

/-- Counting an input that the checks admit keeps the invariant (R161). -/
theorem Coherent.putFreq_input {s : State} (h : Coherent s) (hin : s.inputError = none) :
    Coherent (s.putFreq (freq s.input)) := by
  have hle := h.input_length_le hin
  have hne : s.input ≠ [] := by
    rw [← List.length_pos_iff, State.input_length]
    exact (State.inputError_eq_none.mp hin).2
  exact h.putFreq (freq_length _) (freq_counts_something hne (lt_of_le_of_lt hle (by decide)))
    ((freq_sum_le _).trans hle)

theorem Coherent.withInputTables {s : State} (h : Coherent s) (hin : s.inputError = none) :
    Coherent s.withInputTables :=
  ((h.putFreq_input hin).putTree rfl).putCodes rfl

/-- Every command's completion keeps the invariant. -/
theorem Coherent.exec {s t : State} (h : Coherent s) {i : Instr} (ht : exec i s = .next t) : Coherent t := by
  cases i with
  | nop =>
    obtain rfl := execNop_cases ht
    exact h.succeed _
  | huffEncode =>
    obtain ⟨e, -, rfl⟩ | ⟨hin, rfl⟩ := execHuffEncode_cases ht
    · exact h.raise _ _
    · exact (h.withInputTables hin).emit _ _
  | freqCount =>
    obtain ⟨e, -, rfl⟩ | ⟨hin, rfl⟩ := execFreqCount_cases ht
    · exact h.raise _ _
    · exact (h.putFreq_input hin).succeed _
  | treeBuild =>
    obtain ⟨hft, rfl⟩ | ⟨-, rfl⟩ := execTreeBuild_cases ht
    · exact (h.putTree hft).succeed _
    · exact h.raise _ _
  | codeGen =>
    obtain ⟨htree, rfl⟩ | ⟨-, rfl⟩ := execCodeGen_cases ht
    · exact (h.putCodes htree).succeed _
    · exact h.raise _ _
  | bitPack =>
    obtain ⟨-, rfl⟩ | ⟨-, e, -, rfl⟩ | ⟨-, -, k, -, rfl⟩ | ⟨-, -, -, rfl⟩ := execBitPack_cases ht
    · exact h.raise _ _
    · exact h.raise _ _
    · exact h.raise _ _
    · exact h.emit _ _
  | rleImage =>
    obtain ⟨e, -, rfl⟩ | ⟨-, rfl⟩ := execRleImage_cases ht
    · exact h.raise _ _
    · exact h.emit _ _
  | rleAudio =>
    obtain ⟨e, -, rfl⟩ | ⟨-, rfl⟩ := execRleAudio_cases ht
    · exact h.raise _ _
    · exact h.emit _ _
  | rleVideo =>
    obtain ⟨e, -, rfl⟩ | ⟨-, rfl⟩ := execRleVideo_cases ht
    · exact h.raise _ _
    · exact h.emit _ _

/-- The engine's turn keeps the invariant: a command, an illegal word, or nothing while IDLE (R133, R281). -/
theorem Coherent.engineTurn {s t : State} (h : Coherent s) (ht : engineTurn s = .next t) : Coherent t := by
  unfold Machine.engineTurn complete completeIllegal at ht
  split at ht
  · split at ht
    · exact h.exec ht
    · injection ht with ht
      exact ht ▸ h.raise _ _
  · injection ht with ht
    exact ht ▸ h

/-! ### The port (R34, R103, R108) -/

theorem Coherent.readReg {s : State} (h : Coherent s) (r : Reg) : Coherent (readReg r s).2 := by
  unfold Machine.readReg
  split
  · exact h
  · show Coherent (if drawnWhileBusy r then s.takeDraw else s)
    split
    · exact h.takeDraw
    · exact h

theorem Coherent.writeReg {s : State} (h : Coherent s) (r : Reg) (v : Word) : Coherent (writeReg r v s) := by
  cases r with
  | ctrl =>
    show Coherent (if v.getLsbD 1 then s.softReset else { s with irqEn := v.getLsbD 0 })
    split
    · exact h.softReset
    · exact { h with }
  | status =>
    show Coherent (if v.getLsbD 1 then s.acknowledge else s)
    split
    · exact h.acknowledge
    · exact h
  | cmd => exact h.accept v
  | srcOff | srcLen | dstOff | frameLen | ftSel | ctSel | nodeSel => exact { h with }
  | id | version | srcSize | dstSize | errInfo | outLen | pad | codeBits | tokens | frames | nsym | treeRoot | ftCount
  | ctLen | ctCode | nodeFreq | nodeInfo | reserved => exact h

theorem Coherent.readPlace {s t : State} (h : Coherent s) {place : Place} {w : Width}
    (ht : readPlace place w s = .next t) : Coherent t := by
  unfold Machine.readPlace at ht
  split at ht
  case h_1 r =>
    injection ht with ht
    exact ht ▸ (h.readReg r).respond _
  case h_2 | h_3 =>
    injection ht with ht
    exact ht ▸ h.respond _
  case h_4 | h_5 => cases ht

/-- An admitted write lies inside its memory, so it keeps the bounds. -/
theorem Coherent.writePlace {s t : State} (h : Coherent s) {addr : Word} {place : Place} {w : Width} {v : Word}
    (hplace : locate s.params addr w = .ok place) (ht : writePlace place w v s = .next t) : Coherent t := by
  unfold Machine.writePlace at ht
  split at ht
  case h_1 r _ =>
    injection ht with ht
    exact ht ▸ (h.writeReg r v).respond _
  case h_2 r _ =>
    split at ht
    · injection ht with ht
      exact ht ▸ (h.writeReg r v).respond _
    · cases ht
  case h_3 off _ =>
    injection ht with ht
    exact ht ▸ (h.writeSrc (by simpa using locate_src_within hplace)).respond _
  case h_4 off _ =>
    injection ht with ht
    exact ht ▸ (h.writeDst (by simpa using locate_dst_within hplace)).respond _
  case h_5 | h_6 => cases ht

theorem Coherent.portAccess {s t : State} (h : Coherent s) {a : Access} (ht : portAccess a s = .next t) :
    Coherent t := by
  unfold Machine.portAccess at ht
  split at ht
  · split at ht
    · cases ht
    · exact h.readPlace ht
  · split at ht
    · cases ht
    · exact h.writePlace ‹_› ht

theorem Coherent.hostTurn {s t : State} (h : Coherent s) {a : Access} (ht : hostTurn a s = .next t) : Coherent t := by
  obtain hp | ⟨-, rfl⟩ := hostTurn_cases ht
  · exact h.portAccess hp
  · exact h.respond _

/-- Settles O10, by what stands at the head of the schedule: the engine's turn, a host access or a reset input. -/
theorem everyStepKeepsTheInvariant : Obligations.EveryStepKeepsTheInvariant := by
  intro s t h ht
  match hi : s.inbox with
  | [] => exact h.engineTurn (step_of_nil hi ▸ ht)
  | .engine :: rest => exact (h.setInbox rest).engineTurn (step_of_engine hi ▸ ht)
  | .access a :: rest => exact (h.setInbox rest).hostTurn (step_of_access hi ▸ ht)
  | .powerOn :: rest =>
    rw [step_of_powerOn hi] at ht
    injection ht with ht
    exact ht ▸ (h.setInbox rest).powerCycle

end Sys2Proof.Machine
end

section
/-! PROOFS. The state family, second part: the register file (R33 to R58). What a read of a register answers, what a write
at an offset does, the bits of STATUS, and from these the statements on reset values, writes and reads. -/

namespace Sys2Proof.Machine

/-! ### Reads and writes of a register -/

theorem readReg_idle {s : State} (h : s.seq = .idle) (r : Reg) : readReg r s = (regValue r s, s) := by
  simp [readReg, h]

/-- A register that R56 keeps stable reads alike in IDLE and in BUSY. -/
theorem readReg_stable {r : Reg} (hr : drawnWhileBusy r = false) (s : State) : readReg r s = (regValue r s, s) := by
  cases hs : s.seq with
  | idle => exact readReg_idle hs r
  | busy =>
    have hst : r ≠ .status := by rintro rfl; cases hr
    simp [readReg, hs, regBusyValue, hr]

theorem readReg_drawn {r : Reg} {s : State} (h : s.seq = .busy) (hr : drawnWhileBusy r = true) :
    readReg r s = (regBusyValue r (Config.freeWord s.draws) s, s.takeDraw) := by
  simp [readReg, h, hr]

/-- Of the drawn registers STATUS alone is not free in all its bits (R56). -/
theorem regBusyValue_drawn {r : Reg} (hr : drawnWhileBusy r = true) (hst : r ≠ .status) (draw : Word) (s : State) :
    regBusyValue r draw s = draw := by
  simp [regBusyValue, hr]

theorem hostTurn_readReg_idle {s : State} (h : s.seq = .idle) (r : Reg) :
    hostTurn (.read (regAddr r) .word) s = .next (s.respond (.data (regValue r s))) := by
  rw [hostTurn_readReg, readReg_idle h]

theorem hostTurn_readReg_stable {r : Reg} (hr : drawnWhileBusy r = false) (s : State) :
    hostTurn (.read (regAddr r) .word) s = .next (s.respond (.data (regValue r s))) := by
  rw [hostTurn_readReg, readReg_stable hr]

/-- CTRL and STATUS are written in IDLE and in BUSY (R107). -/
theorem hostTurn_writeReg_always {r : Reg} (hr : writableWhileBusy r = true) (v : Word) (s : State) :
    hostTurn (.write (regAddr r) .word v) s = .next ((writeReg r v s).respond .done) := by
  cases hs : s.seq with
  | idle => exact hostTurn_writeReg_idle r v s hs
  | busy => rw [hostTurn_writeReg_busy r v s hs, if_pos hr]

/-! ### Accesses by offset (R101, R105) -/

theorem locate_offset (p : Params) {off : Nat} (hoff : off < 0x1000) (ha : off % 4 = 0) :
    locate p (BitVec.ofNat 32 off) .word = .ok (.reg (regAt off)) := by
  have hnat : (BitVec.ofNat 32 off).toNat = off := by simp only [BitVec.toNat_ofNat]; omega
  simp [locate, hnat, regFileSize, hoff, locateReg, ha]

theorem hostTurn_readOffset (s : State) {off : Nat} (hoff : off < 0x1000) (ha : off % 4 = 0) :
    hostTurn (.read (BitVec.ofNat 32 off) .word) s =
      .next ((readReg (regAt off) s).2.respond (.data (readReg (regAt off) s).1)) := by
  simp [hostTurn, portAccess, locate_offset s.params hoff ha, readPlace]

theorem hostTurn_writeOffset_idle {s : State} (h : s.seq = .idle) (v : Word) {off : Nat} (hoff : off < 0x1000)
    (ha : off % 4 = 0) :
    hostTurn (.write (BitVec.ofNat 32 off) .word v) s = .next ((writeReg (regAt off) v s).respond .done) := by
  simp [hostTurn, portAccess, locate_offset s.params hoff ha, writePlace, h]

/-- No register stands above NODE_INFO (R33, R58). -/
theorem regAt_above {off : Nat} (h : 0x08C ≤ off) : regAt off = .reserved := by
  have hne : ∀ row ∈ regRows, row.1 < 0x08C := by decide
  have hnone : regRows.lookup off = none :=
    List.lookup_eq_none_iff.mpr fun row hrow => by
      have := hne row hrow
      simpa using (show off ≠ row.1 by omega)
  rw [regAt, hnone, Option.getD_none]

/-! ### The words of single registers -/

theorem getLsbD_flagBit (b : Bool) {k i : Nat} (hi : i < 32) : (flagBit b k).getLsbD i = (decide (i = k) && b) := by
  rw [flagBit, BitVec.getLsbD_shiftLeft, BitVec.getLsbD_setWidth, BitVec.getLsbD_ofBool]
  obtain h | rfl | h := Nat.lt_trichotomy i k
  · simp [h, Nat.ne_of_lt h]
  · simp [hi]
  · simp [show i - k ≠ 0 by omega, Nat.ne_of_gt h]

/-- The bits of STATUS, position by position (R39). -/
theorem State.getLsbD_statusWord (s : State) {i : Nat} (hi : i < 32) :
    s.statusWord.getLsbD i =
      (((decide (i = 0) && s.busyFlag) || (decide (i = 1) && s.done) || (decide (i = 2) && s.errFlag) ||
        (decide (16 ≤ i) && (errNumber s.errCode).getLsbD (i - 16))) ||
        ((decide (i = 8) && s.ftValid) || (decide (i = 9) && s.treeValid) || (decide (i = 10) && s.ctValid))) := by
  have hcode : ((errNumber s.errCode).setWidth 32 <<< 16).getLsbD i =
      (decide (16 ≤ i) && (errNumber s.errCode).getLsbD (i - 16)) := by
    by_cases h : 16 ≤ i
    · simp [hi, h]
    · simp [h, show i < 16 by omega]
  simp only [State.statusWord, State.statusFixed, State.statusValid, BitVec.getLsbD_or, getLsbD_flagBit _ hi, hcode]

theorem State.errFlag_eq_true_iff {s : State} : s.errFlag = true ↔ s.errCode ≠ .none := by
  cases h : s.errCode <;> simp [State.errFlag, h, errNumber]

theorem bitsValue_lt (bs : BitString) : bitsValue bs < 2 ^ bs.length := by
  induction bs with
  | nil => decide
  | cons b bs ih =>
    simp only [bitsValue, List.length_cons, Nat.pow_succ]
    split <;> omega

/-- Bit `i` of the string, counted from its first bit, is that bit of the number, counted from the most significant. -/
theorem testBit_bitsValue (bs : BitString) :
    ∀ (i : Nat) (h : i < bs.length), (bitsValue bs).testBit (bs.length - 1 - i) = bs[i] := by
  induction bs with
  | nil => intro i h; simp at h
  | cons b bs ih =>
    intro i h
    cases i with
    | zero =>
      have hlow := Nat.testBit_lt_two_pow (bitsValue_lt bs)
      cases b <;> simp [bitsValue, hlow, Nat.testBit_two_pow_add_eq]
    | succ i =>
      have hi : i < bs.length := by simpa using h
      rw [List.getElem_cons_succ, ← ih i hi, List.length_cons,
        show bs.length + 1 - 1 - (i + 1) = bs.length - 1 - i by omega]
      cases b with
      | false => simp [bitsValue]
      | true => simpa [bitsValue] using Nat.testBit_two_pow_add_gt (by omega) _

/-- Bit 31 - j of CT_CODEk is bit 32k + j of the code shown (R53). -/
theorem State.getLsbD_ctCodeValue (s : State) (k : Nat) {j : Nat} (hj : j ≤ 31) :
    (s.ctCodeValue k).getLsbD (31 - j) = (s.selectedCode[32 * k + j]?).getD false := by
  have hbit := testBit_bitsValue ((List.range 32).map (fun j => (s.selectedCode[32 * k + j]?).getD false)) j
    (by simp; omega)
  rw [State.ctCodeValue, BitVec.getLsbD_ofNat]
  simpa [show 31 - j < 32 by omega] using hbit

theorem State.selectedCode_of_valid {s : State} (h : s.ctValid = true) : s.selectedCode = codeOf s.ct s.ctSel :=
  if_pos h

theorem State.selectedCode_of_invalid {s : State} (h : s.ctValid = false) : s.selectedCode = [] := by
  simp [State.selectedCode, h]

theorem State.ctLenValue_of_invalid {s : State} (h : s.ctValid = false) : s.ctLenValue = 0#32 := by
  rw [State.ctLenValue, State.selectedCode_of_invalid h]
  rfl

theorem State.ctCodeValue_of_invalid {s : State} (h : s.ctValid = false) (k : Nat) : s.ctCodeValue k = 0#32 := by
  apply BitVec.eq_of_getLsbD_eq
  intro i hi
  have hbit := s.getLsbD_ctCodeValue k (j := 31 - i) (by omega)
  rw [show 31 - (31 - i) = i by omega, State.selectedCode_of_invalid h] at hbit
  simpa using hbit

/-! ### The reset values -/

/-- Settles O11, register by register. -/
theorem powerOnRegisterValues : Obligations.PowerOnRegisterValues := by
  intro p n hp
  have hmax : Config.maxSize < 2 ^ 32 := by decide
  obtain ⟨⟨-, hsrc⟩, -, hdst⟩ := Params.wf_iff.mp hp
  refine ⟨rfl, rfl, rfl, rfl, Nat.mod_eq_of_lt (lt_of_le_of_lt hsrc hmax),
    Nat.mod_eq_of_lt (lt_of_le_of_lt hdst hmax), ?_⟩
  intro r hid hversion hsrcSize hdstSize
  cases r with
  | id | version | srcSize | dstSize => contradiction
  | status =>
    have hreset : State.reset.statusWord = 0#32 := by decide
    exact hreset
  | ctCode k => exact State.ctCodeValue_of_invalid rfl k
  | _ => rfl

/-! ### Writes (R34, R58) -/

/-- The registers whose write does nothing: the read-only ones and the reserved offsets (R34, R58). -/
def ignoresWrites : Reg → Bool
  | .ctrl | .status | .cmd | .srcOff | .srcLen | .dstOff | .frameLen | .ftSel | .ctSel | .nodeSel => false
  | _ => true

theorem writeReg_ignored {r : Reg} (hr : ignoresWrites r = true) (v : Word) (s : State) : writeReg r v s = s := by
  cases r with
  | ctrl | status | cmd | srcOff | srcLen | dstOff | frameLen | ftSel | ctSel | nodeSel => cases hr
  | _ => rfl

/-- The read-only and reserved offsets of R33 hold registers that ignore writes. -/
theorem ignoresWrites_regAt {off : Nat} (ha : off % 4 = 0)
    (hro : off ≤ 0x00C ∨ off = 0x01C ∨ (0x030 ≤ off ∧ off ≤ 0x04C) ∨ off = 0x054 ∨ (0x05C ≤ off ∧ off ≤ 0x07C) ∨
      (0x084 ≤ off ∧ off < 0x1000)) : ignoresWrites (regAt off) = true := by
  rcases Nat.lt_or_ge off 0x08C with hlow | hhigh
  · have hrows : ∀ off < 0x08C, off % 4 = 0 → off ≤ 0x00C ∨ off = 0x01C ∨ (0x030 ≤ off ∧ off ≤ 0x04C) ∨
        off = 0x054 ∨ (0x05C ≤ off ∧ off ≤ 0x07C) ∨ 0x084 ≤ off → ignoresWrites (regAt off) = true := by decide
    exact hrows off hlow ha (by omega)
  · rw [regAt_above hhigh]
    rfl

theorem regAt_reserved {off : Nat} (h : off = 0x04C ∨ 0x08C ≤ off) : regAt off = .reserved := by
  obtain rfl | h := h
  · rfl
  · exact regAt_above h

/-- Settles O24: those offsets hold registers that ignore writes, and reserved ones read 0. -/
theorem readOnlyAndReservedIgnoreWrites : Obligations.ReadOnlyAndReservedIgnoreWrites := by
  intro s v off hidle ha hro
  have hoff : off < 0x1000 := by omega
  constructor
  · rw [hostTurn_writeOffset_idle hidle v hoff ha, writeReg_ignored (ignoresWrites_regAt ha hro)]
    rfl
  · intro hres
    rw [hostTurn_readOffset s hoff ha, readReg_idle hidle, regAt_reserved hres]
    rfl

/-- The bits that a write to a RW register stores (R38, R42, R43, R51, R52, R54). -/
def storedBits : Reg → Word
  | .ctrl => 0x00000001#32
  | .srcOff | .srcLen | .dstOff | .frameLen => 0xFFFFFFFF#32
  | .ftSel | .ctSel => 0x000000FF#32
  | .nodeSel => 0x000001FF#32
  | _ => 0x00000000#32

theorem setWidth_setWidth_eq_and (v : Word) (k : Nat) :
    (v.setWidth k).setWidth 32 = v &&& BitVec.ofNat 32 (2 ^ k - 1) := by
  apply BitVec.eq_of_getLsbD_eq
  intro i hi
  simp only [BitVec.getLsbD_setWidth, BitVec.getLsbD_and, BitVec.getLsbD_ofNat, Nat.testBit_two_pow_sub_one, hi,
    decide_true, Bool.true_and]
  exact Bool.and_comm _ _

theorem flagBit_lsb_eq_and (v : Word) : flagBit (v.getLsbD 0) 0 = v &&& 0x00000001#32 := by
  apply BitVec.eq_of_getLsbD_eq
  intro i hi
  rw [getLsbD_flagBit _ hi, BitVec.getLsbD_and, BitVec.getLsbD_one]
  by_cases h : i = 0 <;> simp [h]

/-- With the write-action bit 0 a write to CTRL only stores IRQ_EN (R38). -/
theorem writeCtrl_irqEn {v : Word} (hv : v.getLsbD 1 = false) (s : State) :
    writeCtrl v s = { s with irqEn := v.getLsbD 0 } := if_neg (hv ▸ Bool.false_ne_true)

/-- A RW register reads back what was written, masked (R34). -/
theorem regValue_writeReg {r : Reg} (hr : storedBits r ≠ 0#32) {v : Word} (hv : r = .ctrl → v.getLsbD 1 = false)
    (s : State) : regValue r (writeReg r v s) = v &&& storedBits r := by
  cases r with
  | ctrl =>
    rw [writeReg, writeCtrl_irqEn (hv rfl)]
    exact flagBit_lsb_eq_and v
  | srcOff | srcLen | dstOff | frameLen => exact (BitVec.and_allOnes (x := v)).symm
  | ftSel | ctSel => exact setWidth_setWidth_eq_and v 8
  | nodeSel => exact setWidth_setWidth_eq_and v 9
  | _ => exact absurd rfl hr


/-- No write of a RW register starts a command or a reset. -/
theorem writeReg_seq {r : Reg} (hr : storedBits r ≠ 0#32) {v : Word} (hv : r = .ctrl → v.getLsbD 1 = false)
    (s : State) : (writeReg r v s).seq = s.seq := by
  cases r with
  | ctrl => rw [writeReg, writeCtrl_irqEn (hv rfl)]
  | srcOff | srcLen | dstOff | frameLen | ftSel | ctSel | nodeSel => rfl
  | _ => exact absurd rfl hr

/-- The next read of a RW register sees the write (R285). -/
theorem hostTurn_read_after_write {r : Reg} (hr : storedBits r ≠ 0#32) {v : Word}
    (hv : r = .ctrl → v.getLsbD 1 = false) {s : State} (h : s.seq = .idle) :
    ∃ t, hostTurn (.write (regAddr r) .word v) s = .next t ∧
      hostTurn (.read (regAddr r) .word) t = .next { t with resp := some (.data (v &&& storedBits r)) } := by
  have hidle : ((writeReg r v s).respond .done).seq = .idle := (writeReg_seq hr hv s).trans h
  refine ⟨(writeReg r v s).respond .done, hostTurn_writeReg_idle r v s h, ?_⟩
  rw [hostTurn_readReg_idle hidle, ← regValue_writeReg hr hv s]
  cases r <;> rfl

/-- Settles O23, from the write of each RW register and its readback. -/
theorem writableRegistersReadBackMasked : Obligations.WritableRegistersReadBackMasked := by
  intro s v
  refine ⟨fun hidle => ?_, fun hv => ?_, ?_⟩
  · have hw := fun r => hostTurn_writeReg_idle r v s hidle
    have h8 : v.extractLsb' 0 8 = v.setWidth 8 := (BitVec.setWidth_eq_extractLsb' (by decide)).symm
    have h9 : v.extractLsb' 0 9 = v.setWidth 9 := (BitVec.setWidth_eq_extractLsb' (by decide)).symm
    rw [h8, h9]
    exact ⟨hw .srcOff, hw .srcLen, hw .dstOff, hw .frameLen, hw .ftSel, hw .ctSel, hw .nodeSel⟩
  · rw [show (0x00000010#32 : Word) = regAddr .ctrl from rfl, hostTurn_writeReg_always rfl, writeReg, writeCtrl_irqEn hv]
    rfl
  · show ∀ p ∈ [Reg.ctrl, .srcOff, .srcLen, .dstOff, .frameLen, .ftSel, .ctSel, .nodeSel].map
      (fun r => (regAddr r, storedBits r)), _
    have hrw : ∀ r ∈ [Reg.ctrl, .srcOff, .srcLen, .dstOff, .frameLen, .ftSel, .ctSel, .nodeSel],
      storedBits r ≠ 0#32 := by decide
    refine List.forall_mem_map.mpr fun r hr hidle hv => ?_
    exact hostTurn_read_after_write (hrw r hr) (fun h => hv (h ▸ rfl)) hidle

/-! ### Reads while BUSY (R56) -/

/-- The offsets of the registers that stay stable while BUSY. -/
theorem drawnWhileBusy_regAt_stable {off : Nat}
    (h : off ∈ [0x000, 0x004, 0x008, 0x00C, 0x010, 0x018, 0x020, 0x024, 0x028, 0x02C, 0x04C, 0x050, 0x058, 0x080] ∨
      0x08C ≤ off) : drawnWhileBusy (regAt off) = false := by
  obtain h | h := h
  · revert off
    decide
  · rw [regAt_above h]
    rfl

/-- The offsets of the registers that are draws while BUSY; STATUS stands at 0x014 alone. -/
theorem drawnWhileBusy_regAt_drawn {off : Nat} (ha : off % 4 = 0)
    (h : off ∈ [0x014, 0x01C, 0x054, 0x084, 0x088] ∨ (0x030 ≤ off ∧ off ≤ 0x048) ∨ (0x05C ≤ off ∧ off ≤ 0x07C)) :
    drawnWhileBusy (regAt off) = true ∧ (off ≠ 0x014 → regAt off ≠ .status) := by
  have hlt : off < 0x08C := by
    simp only [List.mem_cons, List.not_mem_nil, or_false] at h
    omega
  have hdrawn : ∀ off < 0x08C, off % 4 = 0 → off ∈ [0x014, 0x01C, 0x054, 0x084, 0x088] ∨
      (0x030 ≤ off ∧ off ≤ 0x048) ∨ (0x05C ≤ off ∧ off ≤ 0x07C) → drawnWhileBusy (regAt off) = true := by decide
  have hstatus : ∀ off < 0x08C, off ≠ 0x014 → regAt off ≠ .status := by decide
  exact ⟨hdrawn off hlt ha h, hstatus off hlt⟩

/-- While BUSY the invariant leaves of STATUS the BUSY bit and the draws (R56). -/
theorem Coherent.statusBusy {s : State} (h : Coherent s) (hb : s.seq = .busy) (draw : Word) :
    s.statusBusy draw = 0x00000001#32 ||| (draw &&& 0x00000700#32) := by
  obtain ⟨hdone, herr, -⟩ := h.busyQuiet hb
  have hfixed : s.statusFixed = 0x00000001#32 := by
    rw [State.statusFixed, State.busyFlag, State.errFlag, hb, hdone, herr]
    decide
  rw [State.statusBusy, hfixed]

/-- Settles O25, from the offsets of the stable and of the drawn registers. -/
theorem busyReadsDrawOnlyWhatIsUnstable : Obligations.BusyReadsDrawOnlyWhatIsUnstable := by
  intro s off hc hb hoff ha
  refine ⟨_, _, hostTurn_readOffset s hoff ha, rfl, ?_, ?_, ?_, ?_⟩
  · rintro rfl
    have hread : (readReg (regAt 0x014) s).1 = s.statusBusy (Config.freeWord s.draws) := by
      rw [readReg_drawn hb (show drawnWhileBusy (regAt 0x014) = true from rfl)]
      rfl
    rw [hread, hc.statusBusy hb]
    generalize Config.freeWord s.draws = draw
    constructor
    · rw [BitVec.and_or_distrib_right, BitVec.and_assoc]
      simp
    · rw [BitVec.and_or_distrib_right, BitVec.and_assoc]
      simp
  · intro hstable
    rw [readReg_stable (drawnWhileBusy_regAt_stable hstable)]
    exact ⟨rfl, rfl⟩
  · intro hres
    rw [regAt_reserved hres, readReg_stable rfl]
    rfl
  · intro hdrawn
    obtain ⟨hd, hst⟩ := drawnWhileBusy_regAt_drawn ha hdrawn
    rw [readReg_drawn hb hd]
    exact ⟨rfl, fun hne => regBusyValue_drawn hd (hst hne) _ _⟩

/-! ### Reads while IDLE (R34 to R55) -/

theorem flagBit_zero_eq_ite (b : Bool) : flagBit b 0 = if b then 1#32 else 0#32 := by
  cases b <;> decide

/-- The reserved bits of STATUS are 7:3, 15:11 and 31:24 (R39). -/
theorem State.getLsbD_statusWord_reserved (s : State) {i : Nat}
    (h : (3 ≤ i ∧ i < 8) ∨ (11 ≤ i ∧ i < 16) ∨ (24 ≤ i ∧ i < 32)) : s.statusWord.getLsbD i = false := by
  have hcode : (decide (16 ≤ i) && (errNumber s.errCode).getLsbD (i - 16)) = false := by
    by_cases h16 : 16 ≤ i
    · simp [BitVec.getLsbD_of_ge _ _ (show 8 ≤ i - 16 by omega)]
    · simp [h16]
  have hne : i ≠ 0 ∧ i ≠ 1 ∧ i ≠ 2 ∧ i ≠ 8 ∧ i ≠ 9 ∧ i ≠ 10 := by omega
  rw [s.getLsbD_statusWord (by omega), hcode]
  simp [hne]

theorem State.extractLsb'_statusWord_reserved (s : State) {start len : Nat}
    (h : (3 ≤ start ∧ start + len ≤ 8) ∨ (11 ≤ start ∧ start + len ≤ 16) ∨ (24 ≤ start ∧ start + len ≤ 32)) :
    s.statusWord.extractLsb' start len = 0#len := by
  apply BitVec.eq_of_getLsbD_eq
  intro i hi
  rw [BitVec.getLsbD_extractLsb', s.getLsbD_statusWord_reserved (by omega), Bool.and_false, BitVec.getLsbD_zero]

/-- The fields of STATUS while IDLE (R39, R301). -/
theorem State.statusWord_fields {s : State} (h : s.seq = .idle) :
    s.statusWord.getLsbD 0 = false ∧ s.statusWord.getLsbD 1 = s.done ∧
    (s.statusWord.getLsbD 2 = true ↔ s.errCode ≠ .none) ∧ s.statusWord.extractLsb' 3 5 = 0#5 ∧
    s.statusWord.getLsbD 8 = s.ftValid ∧ s.statusWord.getLsbD 9 = s.treeValid ∧
    s.statusWord.getLsbD 10 = s.ctValid ∧ s.statusWord.extractLsb' 11 5 = 0#5 ∧
    s.statusWord.extractLsb' 24 8 = 0#8 ∧ s.statusWord.extractLsb' 16 8 = errNumber s.errCode := by
  have hbit := fun i (hi : i < 32) => s.getLsbD_statusWord hi
  have hidle : s.busyFlag = false := by simp [State.busyFlag, h]
  refine ⟨(hbit 0 (by decide)).trans (by simp [hidle]), (hbit 1 (by decide)).trans (by simp), ?_,
    s.extractLsb'_statusWord_reserved (by omega), (hbit 8 (by decide)).trans (by simp),
    (hbit 9 (by decide)).trans (by simp), (hbit 10 (by decide)).trans (by simp),
    s.extractLsb'_statusWord_reserved (by omega), s.extractLsb'_statusWord_reserved (by omega), ?_⟩
  · rw [hbit 2 (by decide), ← State.errFlag_eq_true_iff]
    simp
  · apply BitVec.eq_of_getLsbD_eq
    intro i hi
    rw [BitVec.getLsbD_extractLsb', hbit (16 + i) (by omega)]
    simp [hi, show ∀ k, k ≤ 10 → 16 + i ≠ k by omega]

/-- Settles O27, from the reads of the stable registers, the reads while IDLE and the fields of STATUS. -/
theorem registerReadsShowTheState : Obligations.RegisterReadsShowTheState := by
  intro s
  constructor
  · show ∀ p ∈ [Reg.id, .version, .srcSize, .dstSize].map (fun r => (regAddr r, regValue r s)), _
    have hstable : ∀ r ∈ [Reg.id, .version, .srcSize, .dstSize], drawnWhileBusy r = false := by decide
    exact List.forall_mem_map.mpr fun r hr => hostTurn_readReg_stable (hstable r hr) s
  · intro hidle
    refine ⟨?_, fun k => hostTurn_readReg_idle hidle (.ctCode k), ?_⟩
    · simp only [BitVec.ofNat_toNat, ← flagBit_zero_eq_ite]
      show ∀ p ∈ [Reg.ctrl, .cmd, .errInfo, .srcOff, .srcLen, .dstOff, .frameLen, .outLen, .pad, .codeBits, .tokens,
        .frames, .nsym, .treeRoot, .ftSel, .ftCount, .ctSel, .ctLen, .nodeSel, .nodeFreq, .nodeInfo].map
        (fun r => (regAddr r, regValue r s)), _
      exact List.forall_mem_map.mpr fun r _ => hostTurn_readReg_idle hidle r
    · obtain ⟨hbusy, hdone, herr, hres1, hft, htree, hct, hres2, hres3, hcode⟩ := State.statusWord_fields hidle
      refine ⟨s.statusWord, hostTurn_readReg_idle hidle .status, hbusy, hdone, herr, hres1, hft, htree, hct, hres2, hres3,
        ?_⟩
      rw [hcode]
      cases s.errCode <;> decide

end Sys2Proof.Machine
end

section
/-! PROOFS. The state family, third part: what the readback registers show of FT and CT (R49 to R53). -/

namespace Sys2Proof.Machine

/-! ### FT (R49, R51) -/

/-- The number of present symbols, counted over the 256 symbols (R49, R165). -/
theorem presentSymbols_length (table : List Word) :
    (presentSymbols table).length =
      (List.range 256).countP (fun k => decide (freqOf table (BitVec.ofNat 8 k) ≠ 0#32)) := by
  rw [presentSymbols, ← List.countP_eq_length_filter, List.countP_map]
  simp [Function.comp_def]

theorem presentSymbols_length_le (table : List Word) : (presentSymbols table).length ≤ 256 := by
  rw [presentSymbols_length]
  exact List.countP_le_length.trans_eq List.length_range

theorem State.nsymValue_toNat (s : State) :
    s.nsymValue.toNat = if s.ftValid then (presentSymbols s.ft).length else 0 := by
  have hle := presentSymbols_length_le s.ft
  unfold State.nsymValue
  split
  · rw [BitVec.toNat_ofNat]
    omega
  · rfl

/-- Settles O28: the write of FT_SEL, the read of FT_COUNT after it, and NSYM. -/
theorem frequencyReadback : Obligations.FrequencyReadback := by
  intro s v hidle
  have hidle' : ((writeReg .ftSel v s).respond .done).seq = .idle := hidle
  refine ⟨_, _, hostTurn_writeReg_idle .ftSel v s hidle, rfl, hostTurn_readReg_idle hidle' .ftCount, rfl, ?_⟩
  rw [← presentSymbols_length]
  exact s.nsymValue_toNat

/-! ### CT (R52, R53) -/

theorem State.ctLenValue_toNat {s : State} (h : s.selectedCode.length ≤ 255) :
    s.ctLenValue.toNat = s.selectedCode.length := by
  rw [State.ctLenValue, BitVec.toNat_setWidth, BitVec.toNat_ofNat]
  omega

/-- Settles O29, from the bits of CT_CODEk and the length of the selected code. -/
theorem codeReadback : Obligations.CodeReadback := by
  intro s k j hj
  refine ⟨fun hct => ?_, fun hct hlen => ?_, fun hct => ?_⟩
  · rw [← State.selectedCode_of_valid hct]
    exact s.getLsbD_ctCodeValue k hj
  · rw [← State.selectedCode_of_valid hct] at hlen ⊢
    exact State.ctLenValue_toNat hlen
  · exact ⟨State.ctLenValue_of_invalid hct, State.ctCodeValue_of_invalid hct k⟩

end Sys2Proof.Machine
end

section
/-! PROOFS. The state family, fourth part: the shape of the node list R165 builds, and what the readback shows of it (R50,
R54, R55). The merge loop keeps a forest: the leaves stand first, every later node has two earlier nodes as children, and
a node either waits in the queue or is a child. -/

namespace Sys2Proof.Machine

/-! ### The merge loop (R165) -/

theorem extractMin_of_ne_nil {queue : List QueueEntry} (h : queue ≠ []) :
    ∃ m rest, extractMin queue = some (m, rest) := by
  cases queue with
  | nil => contradiction
  | cons k ks =>
    unfold extractMin
    split
    · exact ⟨_, _, rfl⟩
    · split <;> exact ⟨_, _, rfl⟩

/-- Taking the least entry out of the queue loses no entry. -/
theorem extractMin_perm : ∀ {queue rest : List QueueEntry} {m : QueueEntry},
    extractMin queue = some (m, rest) → queue.Perm (m :: rest)
  | [], _, _, h => by cases h
  | k :: ks, rest, m, h => by
    unfold extractMin at h
    split at h
    · rename_i hks
      obtain rfl : ks = [] := by
        by_contra hne
        obtain ⟨m', rest', hks'⟩ := extractMin_of_ne_nil hne
        exact absurd (hks.symm.trans hks') nofun
      obtain ⟨rfl, rfl⟩ : k = m ∧ [] = rest := by simpa using h
      exact .refl _
    · rename_i m' rest' hks
      have ih := extractMin_perm hks
      split at h
      · obtain ⟨rfl, rfl⟩ : k = m ∧ m' :: rest' = rest := by simpa using h
        exact ih.cons k
      · obtain ⟨rfl, rfl⟩ : m' = m ∧ k :: rest' = rest := by simpa using h
        exact (ih.cons k).trans (.swap m' k rest')

/-- The node that merges two queue entries: the first one is the left child (R167). -/
def mergedNode (a b : QueueEntry) : Node :=
  .internal (BitVec.ofNat 9 a.node) (BitVec.ofNat 9 b.node) (a.freq + b.freq)

/-- The queue entry of that node, which becomes the last one of the list. -/
def mergedEntry (tree : List Node) (a b : QueueEntry) : QueueEntry :=
  { freq := a.freq + b.freq, node := tree.length }

theorem mergeLoop_succ {fuel : Nat} {tree : List Node} {queue rest rest' : List QueueEntry} {a b : QueueEntry}
    (ha : extractMin queue = some (a, rest)) (hb : extractMin rest = some (b, rest')) :
    mergeLoop (fuel + 1) tree queue =
      mergeLoop fuel (tree ++ [mergedNode a b]) (mergedEntry tree a b :: rest') := by
  rw [mergeLoop, ha]
  dsimp only
  rw [hb]
  rfl

/-- The induction of the merge loop, once: what every merge keeps holds of the finished list and the one entry left. -/
theorem mergeLoop_induction {P : List Node → List QueueEntry → Prop}
    (hmerge : ∀ {tree queue a b rest}, P tree queue → queue.Perm (a :: b :: rest) →
      P (tree ++ [mergedNode a b]) (mergedEntry tree a b :: rest)) :
    ∀ (fuel : Nat) {tree : List Node} {queue : List QueueEntry}, P tree queue → queue.length = fuel + 1 →
      ∃ e, P (mergeLoop fuel tree queue) [e] := by
  intro fuel
  induction fuel with
  | zero =>
    intro tree queue h hlen
    obtain ⟨e, rfl⟩ := List.length_eq_one_iff.mp hlen
    exact ⟨e, h⟩
  | succ fuel ih =>
    intro tree queue h hlen
    obtain ⟨a, rest, ha⟩ := extractMin_of_ne_nil (queue := queue) (by rintro rfl; simp at hlen)
    have hlena := (extractMin_perm ha).length_eq
    obtain ⟨b, rest', hb⟩ := extractMin_of_ne_nil (queue := rest) (by rintro rfl; simp at hlena; omega)
    have hlenb := (extractMin_perm hb).length_eq
    simp only [List.length_cons] at hlena hlenb
    rw [mergeLoop_succ ha hb]
    refine ih (hmerge h ((extractMin_perm ha).trans ((extractMin_perm hb).cons a))) ?_
    simp only [List.length_cons]
    omega

/-! ### The leaves (R63) -/

theorem mem_presentSymbols {table : List Word} {v : Byte} : v ∈ presentSymbols table ↔ freqOf table v ≠ 0#32 := by
  have hv : v ∈ (List.range 256).map (BitVec.ofNat 8) :=
    List.mem_map.mpr ⟨v.toNat, List.mem_range.mpr v.isLt, by simp⟩
  simp [presentSymbols, List.mem_filter, hv]

theorem leaves_length (table : List Word) : (leaves table).length = (presentSymbols table).length := List.length_map _

theorem mem_leaves {table : List Word} {x : Node} :
    x ∈ leaves table ↔ ∃ v ∈ presentSymbols table, Node.leaf v (freqOf table v) = x := List.mem_map

theorem initialQueue_length (tree : List Node) : (initialQueue tree).length = tree.length := by simp [initialQueue]

theorem exists_mem_initialQueue_iff {tree : List Node} {j : Nat} :
    (∃ e ∈ initialQueue tree, e.node = j) ↔ j < tree.length := by
  simp [initialQueue, List.mem_zipIdx_iff_getElem?, ← Option.isSome_iff_exists]

/-! ### The forest -/

/-- What every merge keeps, of the list of nodes and the queue of those that wait. -/
structure IsForest (table : List Word) (tree : List Node) (queue : List QueueEntry) : Prop where
  /-- A merge takes two entries out of the queue, puts one back and makes one node. -/
  count : tree.length + queue.length = 2 * (presentSymbols table).length
  /-- An entry names an existing node. -/
  queued : ∀ e ∈ queue, e.node < tree.length
  /-- The leaves stand first. -/
  leavesFirst : leaves table <+: tree
  /-- Every later node is internal, with two earlier nodes as children. -/
  internal : ∀ k, (presentSymbols table).length ≤ k → k < tree.length →
    ∃ l r f, tree[k]? = some (.internal l r f) ∧ l.toNat < k ∧ r.toNat < k
  /-- A node waits in the queue or is a child. -/
  owned : ∀ j, j < tree.length → (∃ e ∈ queue, e.node = j) ∨ ∃ m, IsChild tree m j

theorem isForest_leaves (table : List Word) : IsForest table (leaves table) (initialQueue (leaves table)) where
  count := by rw [initialQueue_length, leaves_length]; omega
  queued := fun e he => exists_mem_initialQueue_iff.mp ⟨e, he, rfl⟩
  leavesFirst := List.prefix_refl _
  internal := fun k hk hlt => by rw [leaves_length] at hlt; omega
  owned := fun _ hj => .inl (exists_mem_initialQueue_iff.mpr hj)

theorem IsChild.append {tree : List Node} {m j : Nat} (h : IsChild tree m j) (more : List Node) :
    IsChild (tree ++ more) m j := by
  obtain ⟨l, r, f, hm, hlr⟩ := h
  obtain ⟨hlt, -⟩ := List.getElem?_eq_some_iff.mp hm
  exact ⟨l, r, f, (List.getElem?_append_left hlt).trans hm, hlr⟩

/-- A merge keeps the forest; at most 2n - 1 nodes exist, so a 9-bit child index loses nothing (R62). -/
theorem IsForest.merge {table : List Word} {tree : List Node} {queue rest : List QueueEntry} {a b : QueueEntry}
    (h : IsForest table tree queue) (hq : queue.Perm (a :: b :: rest)) :
    IsForest table (tree ++ [mergedNode a b]) (mergedEntry tree a b :: rest) := by
  have hcount := h.count
  have hn := presentSymbols_length_le table
  have hlen := hq.length_eq
  simp only [List.length_cons] at hlen
  have hqueued : ∀ e ∈ a :: b :: rest, e.node < tree.length := fun e he => h.queued e (hq.mem_iff.mpr he)
  have hindex : ∀ e ∈ a :: b :: rest, (BitVec.ofNat 9 e.node).toNat = e.node := by
    intro e he
    have := hqueued e he
    rw [BitVec.toNat_ofNat]
    omega
  have ha := hindex a (by simp)
  have hb := hindex b (by simp)
  have hnew : (tree ++ [mergedNode a b])[tree.length]? = some (mergedNode a b) := List.getElem?_concat_length
  refine ⟨?_, ?_, h.leavesFirst.trans (List.prefix_append _ _), ?_, ?_⟩
  · simp only [List.length_append, List.length_cons, List.length_nil]
    omega
  · intro e he
    rw [List.length_append]
    obtain rfl | he := List.mem_cons.mp he
    · exact Nat.lt_succ_self _
    · exact Nat.lt_succ_of_lt (hqueued e (by simp [he]))
  · intro k hk hlt
    rw [List.length_append] at hlt
    obtain hlt | rfl := Nat.lt_succ_iff_lt_or_eq.mp hlt
    · rw [List.getElem?_append_left hlt]
      exact h.internal k hk hlt
    · exact ⟨_, _, _, hnew, ha.trans_lt (hqueued a (by simp)), hb.trans_lt (hqueued b (by simp))⟩
  · intro j hlt
    rw [List.length_append] at hlt
    obtain hlt | rfl := Nat.lt_succ_iff_lt_or_eq.mp hlt
    · obtain ⟨e, he, rfl⟩ | ⟨m, hm⟩ := h.owned j hlt
      · have he : e = a ∨ e = b ∨ e ∈ rest := by simpa using hq.mem_iff.mp he
        obtain rfl | rfl | he := he
        · exact .inr ⟨_, _, _, _, hnew, .inl ha⟩
        · exact .inr ⟨_, _, _, _, hnew, .inr hb⟩
        · exact .inl ⟨e, List.mem_cons_of_mem _ he, rfl⟩
      · exact .inr ⟨m, hm.append _⟩
    · exact .inl ⟨_, List.mem_cons_self, rfl⟩

/-- `build` ends with one entry in the queue. -/
theorem isForest_build {table : List Word} (hn : 0 < (presentSymbols table).length) :
    ∃ e, IsForest table (build table) [e] := by
  refine mergeLoop_induction (P := IsForest table) (fun h hq => h.merge hq) _ (isForest_leaves table) ?_
  rw [initialQueue_length, leaves_length]
  omega

theorem IsForest.length_finished {table : List Word} {tree : List Node} {e : QueueEntry}
    (h : IsForest table tree [e]) : tree.length + 1 = 2 * (presentSymbols table).length := h.count

/-- A table that counts `n` symbols, `n` not 0, has a tree of 2n - 1 nodes (R63). -/
theorem build_length {table : List Word} (hn : 0 < (presentSymbols table).length) :
    (build table).length + 1 = 2 * (presentSymbols table).length := by
  obtain ⟨e, h⟩ := isForest_build hn
  exact h.length_finished

/-! ### TREE_ROOT (R50) and the selected node (R54, R55) -/

theorem Coherent.presentSymbols_pos {s : State} (h : Coherent s) (hft : s.ftValid = true) :
    0 < (presentSymbols s.ft).length := by
  obtain ⟨v, hv⟩ := h.ftCounts hft
  exact List.length_pos_of_mem (mem_presentSymbols.mpr hv)

theorem State.treeRootValue_toNat {s : State} (hvalid : s.treeValid = true) (hlen : s.nodes.length ≤ 2 ^ 32) :
    s.treeRootValue.toNat = s.nodes.length - 1 := by
  rw [State.treeRootValue, if_pos hvalid, BitVec.toNat_ofNat, rootIndex]
  omega

theorem getLsbD_infoFields (a : BitVec 6) (b : BitVec 8) (r l : BitVec 9) (i : Nat) :
    (a ++ b ++ r ++ l : Word).getLsbD i =
      if i < 9 then l.getLsbD i else if i < 18 then r.getLsbD (i - 9)
      else if i < 26 then b.getLsbD (i - 18) else a.getLsbD (i - 26) := by
  refine (BitVec.getLsbD_append (x := a ++ b ++ r) (y := l)).trans ?_
  simp only [BitVec.getLsbD_append]
  grind

/-- The fields of a NODE_INFO word: LEFT, RIGHT, SYMBOL, the reserved bits, LEAF and EXISTS (R55). -/
theorem infoFields (a : BitVec 6) (b : BitVec 8) (r l : BitVec 9) :
    let v : Word := a ++ b ++ r ++ l
    v.extractLsb' 0 9 = l ∧ v.extractLsb' 9 9 = r ∧ v.extractLsb' 18 8 = b ∧ v.extractLsb' 26 4 = a.extractLsb' 0 4 ∧
    v.getLsbD 30 = a.getLsbD 4 ∧ v.getLsbD 31 = a.getLsbD 5 := by
  refine ⟨?_, ?_, ?_, ?_, getLsbD_infoFields a b r l 30, getLsbD_infoFields a b r l 31⟩
  all_goals
    apply BitVec.eq_of_getLsbD_eq
    intro i hi
    rw [BitVec.getLsbD_extractLsb', getLsbD_infoFields]
    grind

theorem nodeInfoWord_leaf (sym : Byte) (f : Word) :
    nodeInfoWord (.leaf sym f) = (0b110000#6 ++ sym ++ 0#9 ++ 0#9 : Word) := by
  apply BitVec.eq_of_getLsbD_eq
  intro i hi
  simp only [nodeInfoWord, BitVec.getLsbD_or, getLsbD_infoFields]
  interval_cases i <;> simp

theorem nodeInfoWord_internal (l r : BitVec 9) (f : Word) :
    nodeInfoWord (.internal l r f) = (0b100000#6 ++ 0#8 ++ r ++ l : Word) := by
  apply BitVec.eq_of_getLsbD_eq
  intro i hi
  simp only [nodeInfoWord, BitVec.getLsbD_or, getLsbD_infoFields]
  interval_cases i <;> simp

/-- What NODE_INFO and NODE_FREQ read of an existing node. -/
theorem State.nodeValues_of_some {s : State} {x : Node} (hvalid : s.treeValid = true)
    (hx : s.nodes[s.nodeSel.toNat]? = some x) : s.nodeInfoValue = nodeInfoWord x ∧ s.nodeFreqValue = nodeFreq x := by
  have hsel : s.selectedNode = some x := (if_pos hvalid).trans hx
  simp [State.nodeInfoValue, State.nodeFreqValue, hsel]

theorem State.nodeValues_of_none {s : State} (h : s.treeValid = false ∨ s.nodes.length ≤ s.nodeSel.toNat) :
    s.nodeInfoValue = 0#32 ∧ s.nodeFreqValue = 0#32 := by
  have hsel : s.selectedNode = none := by
    obtain h | h := h
    · simp [State.selectedNode, h]
    · simp [State.selectedNode, List.getElem?_eq_none h]
  simp [State.nodeInfoValue, State.nodeFreqValue, hsel]

/-- Settles O30, from the fields of NODE_INFO and the size of the tree. -/
theorem nodeReadback : Obligations.NodeReadback := by
  intro s
  refine ⟨fun sym f hvalid hx => ?_, fun l r f hvalid hx => ?_, State.nodeValues_of_none, fun hc hvalid => ?_,
    fun hinvalid => ?_⟩
  · obtain ⟨hinfo, hfreq⟩ := State.nodeValues_of_some hvalid hx
    obtain ⟨hl, hr, hsym, hres, hleaf, hexists⟩ := infoFields 0b110000#6 sym 0#9 0#9
    intro v
    rw [show v = _ from hinfo.trans (nodeInfoWord_leaf sym f)]
    exact ⟨hl, hr, hsym, hres, hleaf, hexists, hfreq⟩
  · obtain ⟨hinfo, hfreq⟩ := State.nodeValues_of_some hvalid hx
    obtain ⟨hl, hr, hsym, hres, hleaf, hexists⟩ := infoFields 0b100000#6 0#8 r l
    intro v
    rw [show v = _ from hinfo.trans (nodeInfoWord_internal l r f)]
    exact ⟨hl, hr, hsym, hres, hleaf, hexists, hfreq⟩
  · obtain ⟨hft, hnodes⟩ := hc.treeOfFreq hvalid
    have hpos := hc.presentSymbols_pos hft
    have hle := presentSymbols_length_le s.ft
    have hlen := build_length hpos
    rw [← hnodes] at hlen
    have hroot := State.treeRootValue_toNat hvalid (by omega)
    intro n
    rw [show n = (presentSymbols s.ft).length from (presentSymbols_length s.ft).symm]
    exact ⟨hpos, hle, hroot.trans (by omega), by omega⟩
  · show s.treeRootValue = 0#32
    simp [State.treeRootValue, hinvalid]

end Sys2Proof.Machine
end

section
/-! PROOFS. The state family, fifth part: the codes of a tree (R66, R175 to R178). A code is a path of branch bits, as
`follow` walks it, from the root to a leaf; in a forest with one entry left every leaf is reached, and a path is no longer
than there are internal nodes. -/

namespace Sys2Proof.Machine

/-! ### Paths (R175) -/

theorem follow_cons {tree : List Node} {k : Nat} {l r : BitVec 9} {f : Word}
    (h : tree[k]? = some (.internal l r f)) (b : Bool) (bs : BitString) :
    follow tree k (b :: bs) = follow tree (if b then r.toNat else l.toNat) bs := by
  simp [follow, h]

/-- A path that goes on starts at an internal node. -/
theorem internal_of_follow_cons {tree : List Node} {k : Nat} {b : Bool} {bs : BitString} {x : Node}
    (h : follow tree k (b :: bs) = some x) : ∃ l r f, tree[k]? = some (.internal l r f) := by
  unfold follow at h
  split at h
  · exact ⟨_, _, _, ‹_›⟩
  · cases h

/-- One more branch bit leads to a child. -/
theorem follow_snoc {tree : List Node} {l r : BitVec 9} {f : Word} (b : Bool) :
    ∀ {path : BitString} {k : Nat}, follow tree k path = some (.internal l r f) →
      follow tree k (path ++ [b]) = tree[if b then r.toNat else l.toNat]?
  | [], _, h => follow_cons h b []
  | c :: path, k, h => by
    obtain ⟨l', r', f', hk⟩ := internal_of_follow_cons h
    rw [follow_cons hk] at h
    rw [List.cons_append, follow_cons hk]
    exact follow_snoc b h

theorem follow_mem {tree : List Node} {x : Node} :
    ∀ {path : BitString} {k : Nat}, follow tree k path = some x → x ∈ tree
  | [], _, h => List.mem_of_getElem? h
  | b :: path, k, h => by
    obtain ⟨l, r, f, hk⟩ := internal_of_follow_cons h
    rw [follow_cons hk] at h
    exact follow_mem h

/-- `walk` lists the leaves that a path shorter than its fuel leads to, each with the path. -/
theorem mem_walk {tree : List Node} {v : Byte} {q : BitString} :
    ∀ {fuel k : Nat} {p : BitString}, (v, q) ∈ walk tree fuel k p ↔
      ∃ path f, q = p ++ path ∧ path.length < fuel ∧ follow tree k path = some (.leaf v f)
  | 0, k, p => by simp [walk]
  | fuel + 1, k, p => by
    unfold walk
    split
    · rename_i hk
      simp only [List.not_mem_nil, false_iff, not_exists, not_and]
      rintro (_ | ⟨b, path⟩) f - - h
      · exact absurd (hk.symm.trans h) nofun
      · obtain ⟨l, r, f', hk'⟩ := internal_of_follow_cons h
        exact absurd (hk.symm.trans hk') nofun
    · rename_i w f hk
      rw [List.mem_singleton, Prod.mk.injEq]
      constructor
      · rintro ⟨rfl, rfl⟩
        exact ⟨[], f, (List.append_nil _).symm, Nat.succ_pos _, hk⟩
      · rintro ⟨_ | ⟨b, path⟩, f', rfl, -, h⟩
        · have hleaf := hk.symm.trans h
          simp only [Option.some.injEq, Node.leaf.injEq] at hleaf
          exact ⟨hleaf.1.symm, List.append_nil _⟩
        · obtain ⟨l, r, f'', hk'⟩ := internal_of_follow_cons h
          exact absurd (hk.symm.trans hk') nofun
    · rename_i l r f hk
      rw [List.mem_append, mem_walk, mem_walk]
      constructor
      · rintro (⟨path, f', rfl, hlen, h⟩ | ⟨path, f', rfl, hlen, h⟩)
        · exact ⟨false :: path, f', by simp, by simpa using hlen, (follow_cons hk false path).trans h⟩
        · exact ⟨true :: path, f', by simp, by simpa using hlen, (follow_cons hk true path).trans h⟩
      · rintro ⟨_ | ⟨b, path⟩, f', rfl, hlen, h⟩
        · exact absurd (hk.symm.trans h) nofun
        · rw [follow_cons hk] at h
          have hlen' : path.length < fuel := by simpa using hlen
          cases b with
          | false => exact .inl ⟨path, f', by simp, hlen', h⟩
          | true => exact .inr ⟨path, f', by simp, hlen', h⟩

/-! ### The codes of a tree (R175, R176) -/

theorem treeCodes_of_leaf {tree : List Node} {v : Byte} {f : Word}
    (h : tree[rootIndex tree]? = some (.leaf v f)) : treeCodes tree = [(v, [false])] := by
  simp [treeCodes, h]

theorem mem_treeCodes_of_internal {tree : List Node} {l r : BitVec 9} {f : Word}
    (h : tree[rootIndex tree]? = some (.internal l r f)) {v : Byte} {q : BitString} :
    (v, q) ∈ treeCodes tree ↔
      ∃ f', q.length < tree.length ∧ follow tree (rootIndex tree) q = some (.leaf v f') := by
  have hwalk : treeCodes tree = walk tree tree.length (rootIndex tree) [] := by simp [treeCodes, h]
  rw [hwalk, mem_walk]
  simp

/-- An entry of the generated table is the symbol's code in the tree (R65, R175). -/
theorem codeOf_gen (tree : List Node) (v : Byte) : codeOf (gen tree) v = ((treeCodes tree).lookup v).getD [] := by
  have hv : v.toNat < 256 := v.isLt
  have hb : BitVec.ofNat 8 v.toNat = v := by simp
  simp only [codeOf, gen, List.getD, List.getElem?_map, List.getElem?_range hv, Option.map_some, Option.getD_some]
  rw [hb]

/-- A symbol that has a code in the tree has it in the generated table. -/
theorem codeOf_gen_mem {tree : List Node} {v : Byte} {q : BitString} (h : (v, q) ∈ treeCodes tree) :
    (v, codeOf (gen tree) v) ∈ treeCodes tree := by
  have hsome : ((treeCodes tree).lookup v).isSome := List.lookup_isSome_iff.mpr ⟨_, h, beq_self_eq_true v⟩
  obtain ⟨c, hc⟩ := Option.isSome_iff_exists.mp hsome
  obtain ⟨before, after, heq, -⟩ := List.lookup_eq_some_iff.mp hc
  rw [codeOf_gen, hc, heq]
  simp

theorem codeOf_gen_of_not_mem {tree : List Node} {v : Byte} (h : ∀ q, (v, q) ∉ treeCodes tree) :
    codeOf (gen tree) v = [] := by
  have hnone : (treeCodes tree).lookup v = none := by
    rw [List.lookup_eq_none_iff]
    rintro ⟨w, q⟩ hq
    have hne : v ≠ w := by rintro rfl; exact h q hq
    simpa using hne
  rw [codeOf_gen, hnone]
  rfl

/-! ### Paths in the finished forest -/

section Finished
variable {table : List Word} {tree : List Node} {e : QueueEntry} (h : IsForest table tree [e])
include h

theorem IsForest.leaf_index {k : Nat} {v : Byte} {f : Word} (hk : tree[k]? = some (.leaf v f)) :
    k < (presentSymbols table).length := by
  obtain ⟨hlt, -⟩ := List.getElem?_eq_some_iff.mp hk
  by_contra hge
  obtain ⟨l, r, f', hk', -⟩ := h.internal k (by omega) hlt
  exact absurd (hk.symm.trans hk') nofun

theorem IsForest.internal_children {k : Nat} {l r : BitVec 9} {f : Word} (hk : tree[k]? = some (.internal l r f)) :
    (presentSymbols table).length ≤ k ∧ l.toNat < k ∧ r.toNat < k := by
  obtain ⟨hlt, -⟩ := List.getElem?_eq_some_iff.mp hk
  have hge : (presentSymbols table).length ≤ k := by
    by_contra hk'
    have hkl : k < (leaves table).length := by rw [leaves_length]; omega
    have hleaf := List.prefix_iff_getElem?.mp h.leavesFirst k hkl
    obtain ⟨v, -, hv⟩ := mem_leaves.mp (List.getElem_mem hkl)
    rw [← hv] at hleaf
    exact absurd (hk.symm.trans hleaf) nofun
  obtain ⟨l', r', f', hk', hl, hr⟩ := h.internal k hge hlt
  obtain ⟨rfl, rfl, -⟩ : l = l' ∧ r = r' ∧ f = f' := by simpa using hk.symm.trans hk'
  exact ⟨hge, hl, hr⟩

/-- The leaves are those of the present symbols (R63, R165). -/
theorem IsForest.leaf_mem_iff {v : Byte} : (∃ f, Node.leaf v f ∈ tree) ↔ v ∈ presentSymbols table := by
  constructor
  · rintro ⟨f, hf⟩
    obtain ⟨k, hk⟩ := List.mem_iff_getElem?.mp hf
    have hkl : k < (leaves table).length := by rw [leaves_length]; exact h.leaf_index hk
    have hleaf := List.prefix_iff_getElem?.mp h.leavesFirst k hkl
    obtain ⟨w, hw, hwk⟩ := mem_leaves.mp (List.getElem_mem hkl)
    rw [← hwk] at hleaf
    obtain ⟨rfl, -⟩ : v = w ∧ f = freqOf table w := by simpa using hk.symm.trans hleaf
    exact hw
  · intro hv
    exact ⟨_, h.leavesFirst.mem (mem_leaves.mpr ⟨v, hv, rfl⟩)⟩

/-- A path from node `k` visits internal nodes of falling index, so it has at most k + 1 - n bits. -/
theorem IsForest.follow_length {x : Node} : ∀ {path : BitString} {k : Nat}, follow tree k path = some x →
    path.length ≤ k + 1 - (presentSymbols table).length
  | [], _, _ => Nat.zero_le _
  | b :: path, k, hx => by
    obtain ⟨l, r, f, hk⟩ := internal_of_follow_cons hx
    obtain ⟨hge, hl, hr⟩ := h.internal_children hk
    rw [follow_cons hk] at hx
    have ih := IsForest.follow_length hx
    rw [List.length_cons]
    cases b with
    | false =>
      simp only [Bool.false_eq_true, if_false] at ih
      omega
    | true =>
      simp only [if_true] at ih
      omega

/-- A path from the root, node 2n - 2, has at most n - 1 bits. -/
theorem IsForest.follow_root_length {x : Node} {path : BitString} (hx : follow tree (rootIndex tree) path = some x) :
    path.length ≤ (presentSymbols table).length - 1 := by
  have hlen := h.follow_length hx
  have hcount := h.length_finished
  unfold rootIndex at hlen
  omega

theorem IsForest.root_exists : ∃ x, tree[rootIndex tree]? = some x := by
  have hlt := h.queued e List.mem_cons_self
  exact ⟨_, List.getElem?_eq_getElem (by unfold rootIndex; omega)⟩

/-- The entry left in the queue is the root: the last node is no child. -/
theorem IsForest.root_queued : e.node = rootIndex tree := by
  have hlt := h.queued e (by simp)
  obtain ⟨e', he', hnode⟩ | ⟨m, l, r, f, hm, hlr⟩ := h.owned (rootIndex tree) (by unfold rootIndex; omega)
  · rw [List.mem_singleton.mp he'] at hnode
    exact hnode
  · obtain ⟨hmlt, -⟩ := List.getElem?_eq_some_iff.mp hm
    obtain ⟨-, hl, hr⟩ := h.internal_children hm
    unfold rootIndex at hlr
    omega

/-- A path leads from the root to every node: up from a node to its parent, whose index is higher. -/
theorem IsForest.reached {j : Nat} (hj : j < tree.length) : ∃ path, follow tree (rootIndex tree) path = tree[j]? := by
  induction hd : tree.length - j using Nat.strong_induction_on generalizing j with
  | _ d ih =>
    obtain ⟨e', he', rfl⟩ | ⟨m, l, r, f, hm, hlr⟩ := h.owned j hj
    · rw [List.mem_singleton.mp he', h.root_queued]
      exact ⟨[], rfl⟩
    · obtain ⟨hmlt, -⟩ := List.getElem?_eq_some_iff.mp hm
      obtain ⟨-, hl, hr⟩ := h.internal_children hm
      obtain ⟨path, hpath⟩ := ih (tree.length - m) (by omega) hmlt rfl
      rw [hm] at hpath
      obtain rfl | rfl := hlr
      · exact ⟨path ++ [false], follow_snoc false hpath⟩
      · exact ⟨path ++ [true], follow_snoc true hpath⟩

/-- A code in the finished tree belongs to a present symbol, is not empty and has at most n - 1 bits, or 1 bit when the
tree is a single leaf (R176, R178). -/
theorem IsForest.code_bounds {v : Byte} {q : BitString} (hq : (v, q) ∈ treeCodes tree) :
    v ∈ presentSymbols table ∧ q ≠ [] ∧ q.length ≤ max 1 ((presentSymbols table).length - 1) := by
  obtain ⟨x, hx⟩ := h.root_exists
  cases x with
  | leaf w f =>
    rw [treeCodes_of_leaf hx, List.mem_singleton] at hq
    obtain ⟨rfl, rfl⟩ := Prod.mk.injEq .. ▸ hq
    exact ⟨h.leaf_mem_iff.mp ⟨f, List.mem_of_getElem? hx⟩, nofun, by simp⟩
  | internal l r f =>
    obtain ⟨f', -, hpath⟩ := (mem_treeCodes_of_internal hx).mp hq
    refine ⟨h.leaf_mem_iff.mp ⟨f', follow_mem hpath⟩, ?_, (h.follow_root_length hpath).trans (le_max_right _ _)⟩
    rintro rfl
    exact absurd (hx.symm.trans hpath) nofun

/-- Every present symbol has a code in the finished tree. -/
theorem IsForest.code_exists {v : Byte} (hv : v ∈ presentSymbols table) : ∃ q, (v, q) ∈ treeCodes tree := by
  obtain ⟨f, hf⟩ := h.leaf_mem_iff.mpr hv
  obtain ⟨j, hj⟩ := List.mem_iff_getElem?.mp hf
  obtain ⟨hjlt, -⟩ := List.getElem?_eq_some_iff.mp hj
  obtain ⟨path, hpath⟩ := h.reached hjlt
  rw [hj] at hpath
  obtain ⟨x, hx⟩ := h.root_exists
  cases x with
  | leaf w f' =>
    cases path with
    | nil =>
      obtain ⟨rfl, -⟩ : v = w ∧ f = f' := by simpa using hpath.symm.trans hx
      exact ⟨_, by rw [treeCodes_of_leaf hx]; exact List.mem_singleton_self _⟩
    | cons b path =>
      obtain ⟨l, r, f'', hx'⟩ := internal_of_follow_cons hpath
      exact absurd (hx.symm.trans hx') nofun
  | internal l r f' =>
    refine ⟨path, (mem_treeCodes_of_internal hx).mpr ⟨f, ?_, hpath⟩⟩
    have hlen := h.follow_root_length hpath
    have hcount := h.length_finished
    omega

end Finished

/-! ### The codes of a counted table -/

/-- Exactly the present symbols have a code (R66). -/
theorem codeOf_build_ne_nil {table : List Word} (hn : 0 < (presentSymbols table).length) (v : Byte) :
    codeOf (gen (build table)) v ≠ [] ↔ v ∈ presentSymbols table := by
  obtain ⟨e, h⟩ := isForest_build hn
  constructor
  · intro hne
    by_contra hv
    exact hne (codeOf_gen_of_not_mem fun q hq => hv (h.code_bounds hq).1)
  · intro hv
    obtain ⟨q, hq⟩ := h.code_exists hv
    exact (h.code_bounds (codeOf_gen_mem hq)).2.1

/-- The length bound of R178; a symbol that is not present has the empty code. -/
theorem codeOf_build_length {table : List Word} (hn : 0 < (presentSymbols table).length) (v : Byte) :
    (codeOf (gen (build table)) v).length ≤ max 1 ((presentSymbols table).length - 1) := by
  obtain ⟨e, h⟩ := isForest_build hn
  by_cases hv : v ∈ presentSymbols table
  · obtain ⟨q, hq⟩ := h.code_exists hv
    exact (h.code_bounds (codeOf_gen_mem hq)).2.2
  · have hnil : codeOf (gen (build table)) v = [] :=
      not_not.mp (mt (codeOf_build_ne_nil hn v).mp hv)
    simp [hnil]

/-- Settles O57: the invariant makes CT the codes of the tree of FT. -/
theorem exactlyTheCountedSymbolsHaveCodes : Obligations.ExactlyTheCountedSymbolsHaveCodes := by
  intro s v hc hct
  obtain ⟨htree, hcodes⟩ := hc.codesOfTree hct
  obtain ⟨hft, hnodes⟩ := hc.treeOfFreq htree
  have hpos := hc.presentSymbols_pos hft
  have hle := presentSymbols_length_le s.ft
  have hlen := codeOf_build_length hpos v
  rw [hcodes, hnodes]
  exact ⟨(codeOf_build_ne_nil hpos v).trans mem_presentSymbols, by omega, fun _ => by omega⟩

end Sys2Proof.Machine
end

section
/-! PROOFS. The memory family (spec/20_memory.md): the host slave port. Which accesses the map admits, what the port
answers at an admitted place and at any other address, and the windows on SRC and DST as byte memories. -/

namespace Sys2Proof.Machine

/-! ### The step (R111, R281) -/

theorem engineTurn_idle {s : State} (h : s.seq = .idle) : engineTurn s = .next s := by simp [engineTurn, h]

/-- Settles O5, by what stands at the head of the schedule. -/
theorem stepPerformsTheOldestEvent : Obligations.StepPerformsTheOldestEvent := by
  intro s rest
  refine ⟨fun _ => step_of_access, step_of_powerOn, fun hidle hi => ?_, fun hidle hi => ?_⟩
  · exact (step_of_engine hi).trans (engineTurn_idle hidle)
  · exact (step_of_nil hi).trans (engineTurn_idle hidle)

/-! ### The port's outcome as the host sees it (R108) -/

theorem hostTurn_of_next {a : Access} {s t : State} (h : portAccess a s = .next t) : hostTurn a s = .next t := by
  simp [hostTurn, h]

theorem hostTurn_of_fault {a : Access} {s : State} {f : Fault} (h : portAccess a s = .fault f) :
    hostTurn a s = .next (s.respond .busError) := by
  simp [hostTurn, h]

/-- Settles O20: the host's turn answers every fault of the port with a bus error. -/
theorem refusedAccessSetsNoState : Obligations.RefusedAccessSetsNoState := fun _ _ _ => hostTurn_of_fault

theorem portAccess_read {s : State} {addr : Word} {w : Width} {place : Place}
    (h : locate s.params addr w = .ok place) : portAccess (.read addr w) s = readPlace place w s := by
  simp [portAccess, h]

theorem portAccess_write {s : State} {addr : Word} {w : Width} {place : Place}
    (h : locate s.params addr w = .ok place) (v : Word) :
    portAccess (.write addr w v) s = writePlace place w v s := by
  simp [portAccess, h]

/-- The answer to a refused access, the same for a read and for a write. -/
def Refused (s : State) (addr : Word) (w : Width) (v : Word) : Prop :=
  hostTurn (.read addr w) s = .next (s.respond .busError) ∧
  hostTurn (.write addr w v) s = .next (s.respond .busError)

/-- What the map has no place for is refused. -/
theorem refused_of_locate_error {s : State} {addr : Word} {w : Width} {f : Fault}
    (h : locate s.params addr w = .error f) (v : Word) : Refused s addr w v :=
  ⟨hostTurn_of_fault (f := f) (by simp [portAccess, h]), hostTurn_of_fault (f := f) (by simp [portAccess, h])⟩

/-! ### The address map (R101, R105, R106) -/

theorem locateReg_ok_iff {off : Nat} {w : Width} :
    (∃ place, locateReg off w = .ok place) ↔ w = .word ∧ off % 4 = 0 := by
  unfold locateReg
  by_cases hw : w = .word <;> by_cases ha : off % 4 = 0 <;> simp [hw, ha]

theorem locateWindow_eq_ok_iff {off size : Nat} {w : Width} {place q : Place} :
    locateWindow off size w place = .ok q ↔ (off % widthBytes w = 0 ∧ off + widthBytes w ≤ size) ∧ q = place := by
  unfold locateWindow
  by_cases ha : off % widthBytes w = 0
  · by_cases hs : size < off + widthBytes w
    · simp [ha, hs]
    · simp [ha, hs, Nat.le_of_not_lt hs, eq_comm]
  · simp [ha]

/-- A base that is a multiple of 4 leaves the alignment of every width to the offset. -/
theorem sub_base_mod_widthBytes {a base : Nat} (hbase : base % 4 = 0) (h : base ≤ a) (w : Width) :
    (a - base) % widthBytes w = a % widthBytes w := by
  cases w <;> simp only [widthBytes] <;> omega

/-- The condition of R106 on the offset, said of the address. -/
theorem locateWindow_ok_iff {a base size : Nat} {w : Width} {place : Place} (hbase : base % 4 = 0) (h : base ≤ a) :
    (∃ q, locateWindow (a - base) size w place = .ok q) ↔ a % widthBytes w = 0 ∧ a + widthBytes w ≤ base + size := by
  have hend : a - base + widthBytes w ≤ size ↔ a + widthBytes w ≤ base + size := by omega
  simp only [locateWindow_eq_ok_iff, exists_eq_right, sub_base_mod_widthBytes hbase h, hend]

theorem widthBytes_pos (w : Width) : 0 < widthBytes w := by cases w <;> decide

/-- The map finds a place for exactly the admitted accesses: no region reaches the next one (R8). -/
theorem locate_ok_iff {p : Params} (hp : p.wf = true) (addr : Word) (w : Width) :
    (∃ place, locate p addr w = .ok place) ↔ Admitted p addr w := by
  obtain ⟨⟨-, hsrc⟩, -, hdst⟩ := Params.wf_iff.mp hp
  have hpos := widthBytes_pos w
  unfold Config.maxSize at hsrc hdst
  unfold locate regFileSize srcBase dstBase dstEnd Admitted
  generalize addr.toNat = a
  by_cases hreg : a < 0x1000
  · have hbelow : ¬ 0x01000000 ≤ a ∧ ¬ 0x02000000 ≤ a := by omega
    simp [hreg, hbelow, locateReg_ok_iff]
  by_cases hs : 0x01000000 ≤ a ∧ a < 0x02000000
  · have hbelow : ¬ 0x02000000 ≤ a := by omega
    simp [hreg, hs, hbelow, locateWindow_ok_iff]
  by_cases hd : 0x02000000 ≤ a ∧ a < 0x03000000
  · have hpast : ¬ a + widthBytes w ≤ 0x01000000 + p.srcSize := by omega
    simp [hreg, hs, hd, hpast, locateWindow_ok_iff]
  · simp only [hreg, hs, hd, if_false, reduceCtorEq, exists_false, false_iff]
    rintro (⟨h, -⟩ | ⟨h, -, hend⟩ | ⟨h, -, hend⟩) <;> omega

/-- A place in the register file is reached only by an aligned 32-bit access below 0x1000 (R105). -/
theorem locate_ok_reg {p : Params} {addr : Word} {w : Width} {r : Reg} (h : locate p addr w = .ok (.reg r)) :
    addr.toNat < 0x1000 ∧ w = .word ∧ addr.toNat % 4 = 0 := by
  unfold locate at h
  dsimp only at h
  split at h
  · exact ⟨‹_›, locateReg_ok_iff.mp ⟨_, h⟩⟩
  · split at h
    · cases (locateWindow_eq_ok_iff.mp h).2
    · split at h
      · cases (locateWindow_eq_ok_iff.mp h).2
      · cases h

theorem locate_register (p : Params) {addr : Word} (hlt : addr.toNat < 0x1000) (ha : addr.toNat % 4 = 0) :
    locate p addr .word = .ok (.reg (regAt addr.toNat)) := by
  simpa using locate_offset p hlt ha

/-! ### Accesses while IDLE (R101, R109) -/

/-- While IDLE a read of any place answers data and changes nothing (R109). -/
theorem readPlace_idle {s : State} (h : s.seq = .idle) (place : Place) (w : Width) :
    ∃ d, readPlace place w s = .next (s.respond (.data d)) := by
  cases place with
  | reg r => exact ⟨regValue r s, by simp [readPlace, readReg_idle h]⟩
  | src off => exact ⟨windowData s.src off w, by simp [readPlace, h]⟩
  | dst off => exact ⟨windowData s.dst off w, by simp [readPlace, h]⟩

/-- While IDLE a write of any place is admitted. -/
theorem writePlace_idle {s : State} (h : s.seq = .idle) (place : Place) (w : Width) (v : Word) :
    ∃ t, writePlace place w v s = .next t := by
  cases place <;> simp [writePlace, h]

/-- Settles O18: an admitted access has a place, and while IDLE every place is open to reads and writes. -/
theorem idlePortAdmitsExactlyTheMap : Obligations.IdlePortAdmitsExactlyTheMap := by
  intro s addr w v hp hidle
  rw [← locate_ok_iff hp]
  constructor
  · rintro ⟨place, hplace⟩
    obtain ⟨d, hread⟩ := readPlace_idle hidle place w
    exact ⟨⟨_, (portAccess_read hplace).trans hread⟩,
      portAccess_write hplace v ▸ writePlace_idle hidle place w v⟩
  · intro hnone
    cases hl : locate s.params addr w with
    | ok place => exact absurd ⟨place, hl⟩ hnone
    | error f => exact refused_of_locate_error hl v

/-- Settles O26: an admitted read has a place, and while IDLE reading a place only answers. -/
theorem idleReadsHaveNoSideEffect : Obligations.IdleReadsHaveNoSideEffect := by
  intro s t addr w hidle ht
  cases hl : locate s.params addr w with
  | error f => simp [portAccess, hl] at ht
  | ok place =>
    obtain ⟨d, hread⟩ := readPlace_idle hidle place w
    rw [portAccess_read hl, hread] at ht
    injection ht with ht
    exact ⟨d, ht.symm⟩

/-! ### Accesses while BUSY (R107) -/

/-- Of the offsets of the register file only those of CTRL and STATUS are writable while BUSY. -/
theorem writableWhileBusy_regAt {off : Nat} (hctrl : off ≠ 0x010) (hstatus : off ≠ 0x014) :
    writableWhileBusy (regAt off) = false := by
  rcases Nat.lt_or_ge off 0x08C with hlow | hhigh
  · have hrows : ∀ off < 0x08C, off ≠ 0x010 → off ≠ 0x014 → writableWhileBusy (regAt off) = false := by decide
    exact hrows off hlow hctrl hstatus
  · rw [regAt_above hhigh]
    rfl

/-- While BUSY everything but a register is locked, and what the map refuses stays refused. -/
theorem refused_busy_of_not_reg {s : State} (h : s.seq = .busy) {addr : Word} {w : Width}
    (hreg : ∀ r, locate s.params addr w ≠ .ok (.reg r)) (v : Word) : Refused s addr w v := by
  cases hl : locate s.params addr w with
  | error f => exact refused_of_locate_error hl v
  | ok place =>
    cases place with
    | reg r => exact absurd hl (hreg r)
    | src off | dst off =>
      constructor
      · exact hostTurn_of_fault (f := .busyLocked) (by simp [portAccess_read hl, readPlace, h])
      · exact hostTurn_of_fault (f := .busyLocked) (by simp [portAccess_write hl, writePlace, h])

/-- Settles O19: the register file by the offset's register, everything else by the lock. -/
theorem busyPortLocksTheMachine : Obligations.BusyPortLocksTheMachine := by
  intro s addr w v hb
  refine ⟨fun hlt ha => ⟨?_, ?_, fun hctrl hstatus => ?_⟩, fun hout => ?_⟩
  · exact ⟨_, _, hostTurn_of_next (portAccess_read (locate_register s.params hlt ha)), rfl⟩
  · rintro (rfl | rfl)
    · exact ⟨_, hostTurn_writeReg_always (r := .ctrl) rfl v s, rfl⟩
    · exact ⟨_, hostTurn_writeReg_always (r := .status) rfl v s, rfl⟩
  · have hlocked : writableWhileBusy (regAt addr.toNat) = false :=
      writableWhileBusy_regAt (fun h => hctrl (BitVec.eq_of_toNat_eq h)) (fun h => hstatus (BitVec.eq_of_toNat_eq h))
    exact hostTurn_of_fault (f := .busyLocked)
      (by simp [portAccess_write (locate_register s.params hlt ha), writePlace, hb, hlocked])
  · refine refused_busy_of_not_reg hb (fun r hl => ?_) v
    obtain ⟨hlt, hw, ha⟩ := locate_ok_reg hl
    obtain ⟨-, hbad | hbad⟩ | hhigh := hout
    · exact hbad hw
    · exact hbad ha
    · omega

/-! ### The windows as byte memories (R103, R106) -/

/-- The written bytes are the low bytes of the data, lowest first. -/
theorem windowWrite_read_inside (m : Memory) (off : Nat) (w : Width) (v : Word) {k : Nat} (hk : k < widthBytes w) :
    (windowWrite m off w v).read (off + k) = v.extractLsb' (8 * k) 8 := by
  have hlen : k < (leBytes v (widthBytes w)).length := (leBytes_length _ v).symm ▸ hk
  rw [windowWrite, Memory.read_writeBytes_inside _ _ _ _ hlen, leBytes_getElem]

theorem windowWrite_read_outside (m : Memory) {off : Nat} {w : Width} (v : Word) {a : Nat}
    (ha : a < off ∨ off + widthBytes w ≤ a) : (windowWrite m off w v).read a = m.read a :=
  Memory.read_writeBytes_outside _ _ _ _ (by simpa using ha)

/-- The access that wrote reads its value back, zero extended. -/
theorem windowData_windowWrite (m : Memory) (off : Nat) (w : Width) (v : Word) :
    windowData (windowWrite m off w v) off w = BitVec.ofNat 32 (v.toNat % 2 ^ (8 * widthBytes w)) := by
  have hbytes := Memory.readBytes_writeBytes m off (leBytes v (widthBytes w))
  rw [leBytes_length] at hbytes
  rw [windowData, windowWrite, hbytes, leValue_leBytes]

/-! ### An access to a window while IDLE, for SRC and DST alike -/

/-- The memory behind a window. -/
def Window.memory (m : Window) (s : State) : Memory :=
  match m with
  | .src => s.src
  | .dst => s.dst

/-- The state with another memory behind a window. -/
def Window.replace (m : Window) (new : Memory) (s : State) : State :=
  match m with
  | .src => { s with src := new }
  | .dst => { s with dst := new }

/-- The size of the region a window stands for (R8). -/
def Window.size (m : Window) (p : Params) : Nat :=
  match m with
  | .src => p.srcSize
  | .dst => p.dstSize

/-- What an access at an offset of a window reaches. -/
def Window.place (m : Window) (off : Nat) : Place :=
  match m with
  | .src => .src off
  | .dst => .dst off

@[simp] theorem Window.memory_replace (m : Window) (new : Memory) (s : State) : m.memory (m.replace new s) = new := by
  cases m <;> rfl

theorem Window.memory_replace_other {m n : Window} (h : n ≠ m) (new : Memory) (s : State) :
    n.memory (m.replace new s) = n.memory s := by
  cases m with
  | src =>
    cases n with
    | src => exact absurd rfl h
    | dst => rfl
  | dst =>
    cases n with
    | src => rfl
    | dst => exact absurd rfl h

@[simp] theorem Window.memory_respond (m : Window) (r : Response) (s : State) :
    m.memory (s.respond r) = m.memory s := by
  cases m <;> rfl

@[simp] theorem Window.replace_params (m : Window) (new : Memory) (s : State) :
    (m.replace new s).params = s.params := by
  cases m <;> rfl

@[simp] theorem Window.replace_seq (m : Window) (new : Memory) (s : State) : (m.replace new s).seq = s.seq := by
  cases m <;> rfl

/-- An aligned access inside the region lands at its offset (R101, R106). -/
theorem locate_windowAddr {p : Params} (hp : p.wf = true) (m : Window) {off : Nat} {w : Width}
    (ha : off % widthBytes w = 0) (hin : off + widthBytes w ≤ m.size p) :
    locate p (windowAddr m off) w = .ok (m.place off) := by
  obtain ⟨⟨-, hsrc⟩, -, hdst⟩ := Params.wf_iff.mp hp
  have hpos := widthBytes_pos w
  unfold Config.maxSize at hsrc hdst
  cases m with
  | src =>
    change off + widthBytes w ≤ p.srcSize at hin
    rw [locate_srcAddr p off w (by unfold dstBase srcBase; omega)]
    exact locateWindow_ok _ ha hin
  | dst =>
    change off + widthBytes w ≤ p.dstSize at hin
    rw [locate_dstAddr p off w (by unfold dstEnd dstBase; omega)]
    exact locateWindow_ok _ ha hin

/-- A write inside a window stores into the memory behind it and changes nothing else. -/
theorem hostTurn_writeWindow {s : State} (hp : s.params.wf = true) (hidle : s.seq = .idle) (m : Window) {off : Nat}
    {w : Width} (ha : off % widthBytes w = 0) (hin : off + widthBytes w ≤ m.size s.params) (v : Word) :
    hostTurn (.write (windowAddr m off) w v) s =
      .next ((m.replace (windowWrite (m.memory s) off w v) s).respond .done) := by
  apply hostTurn_of_next
  rw [portAccess_write (locate_windowAddr hp m ha hin)]
  cases m <;> simp [writePlace, Window.place, Window.memory, Window.replace, hidle]

/-- A read inside a window answers the bytes of the memory behind it. -/
theorem hostTurn_readWindow {s : State} (hp : s.params.wf = true) (hidle : s.seq = .idle) (m : Window) {off : Nat}
    {w : Width} (ha : off % widthBytes w = 0) (hin : off + widthBytes w ≤ m.size s.params) :
    hostTurn (.read (windowAddr m off) w) s = .next (s.respond (.data (windowData (m.memory s) off w))) := by
  apply hostTurn_of_next
  rw [portAccess_read (locate_windowAddr hp m ha hin)]
  cases m <;> simp [readPlace, Window.place, Window.memory, hidle]

/-- What R103 says of either window: the bytes are stored little-endian, no other byte of that memory and no byte of the
other one changes, and the same access reads the value back. -/
theorem window_stores_littleEndian {s : State} (hp : s.params.wf = true) (hidle : s.seq = .idle) (m : Window)
    {off : Nat} {w : Width} (ha : off % widthBytes w = 0) (hin : off + widthBytes w ≤ m.size s.params) (v : Word) :
    ∃ t, hostTurn (.write (windowAddr m off) w v) s = .next t ∧ t.resp = some .done ∧
      (∀ k, k < widthBytes w → (m.memory t).read (off + k) = v.extractLsb' (8 * k) 8) ∧
      (∀ a, (a < off ∨ off + widthBytes w ≤ a) → (m.memory t).read a = (m.memory s).read a) ∧
      (∀ n, n ≠ m → n.memory t = n.memory s) ∧
      hostTurn (.read (windowAddr m off) w) t =
        .next (t.respond (.data (BitVec.ofNat 32 (v.toNat % 2 ^ (8 * widthBytes w))))) := by
  refine ⟨_, hostTurn_writeWindow hp hidle m ha hin v, rfl, ?_, ?_, ?_, ?_⟩
  · intro k hk
    simp [windowWrite_read_inside _ _ _ _ hk]
  · intro a hout
    simp [windowWrite_read_outside _ _ hout]
  · intro n hn
    simp [Window.memory_replace_other hn]
  · rw [hostTurn_readWindow (by simpa using hp) (by simpa using hidle) m ha (by simpa using hin)]
    simp [windowData_windowWrite]

/-- Settles O21: SRC is one of the two windows. -/
theorem srcWindowStoresLittleEndian : Obligations.SrcWindowStoresLittleEndian := by
  intro s w off v hp hidle ha hin
  obtain ⟨t, hwrite, hresp, hbytes, hkept, hother, hread⟩ := window_stores_littleEndian hp hidle .src ha hin v
  exact ⟨t, _, hwrite, hresp, hbytes, hkept, hother .dst nofun, hread, rfl, rfl, rfl⟩

/-- Settles O22: DST is the other one. -/
theorem dstWindowStoresLittleEndian : Obligations.DstWindowStoresLittleEndian := by
  intro s w off v hp hidle ha hin
  obtain ⟨t, hwrite, hresp, hbytes, hkept, hother, hread⟩ := window_stores_littleEndian hp hidle .dst ha hin v
  exact ⟨t, _, hwrite, hresp, hbytes, hkept, hother .src nofun, hread, rfl, rfl, rfl⟩

end Sys2Proof.Machine
end

section
/-! PROOFS. The encoding family (spec/30_encoding.md), first part: the decoder. A word is its two fields, the opcode map
lists each command once, and an error or a command of the decoder is a fact about the word's number (R130 to R134). -/

namespace Sys2Proof

/-! ### The fields of a word (R130) -/

theorem opField_toNat (w : Word) : (opField w).toNat = w.toNat % 256 := by simp [opField]

theorem resField_eq_zero_iff {w : Word} : resField w = 0#24 ↔ w.toNat < 0x100 := by
  have hw : w.toNat < 2 ^ 32 := w.isLt
  rw [← BitVec.toNat_inj]
  simp only [resField, BitVec.extractLsb'_toNat, BitVec.toNat_ofNat, Nat.shiftRight_eq_div_pow]
  omega

/-- With bits 31:8 clear the opcode is the whole word. -/
theorem opField_toNat_of_res {w : Word} (hres : resField w = 0#24) : (opField w).toNat = w.toNat := by
  rw [opField_toNat, Nat.mod_eq_of_lt (resField_eq_zero_iff.mp hres)]

/-! ### The opcode map (R132) -/

theorem opcodeRows_row : ∀ row ∈ opcodeRows, row.1 = opField (encode row.2) := by decide

theorem resField_encode (i : Instr) : resField (encode i) = 0#24 := by cases i <;> rfl

theorem opField_of_lookup {op : BitVec 8} {i : Instr} (h : opcodeRows.lookup op = some i) :
    op = opField (encode i) := by
  obtain ⟨before, after, hrows, -⟩ := List.lookup_eq_some_iff.mp h
  exact opcodeRows_row (op, i) (by simp [hrows])

theorem lookup_eq_none_iff {op : BitVec 8} :
    opcodeRows.lookup op = none ↔ (0x06 ≤ op.toNat ∧ op.toNat ≤ 0x0F) ∨ 0x13 ≤ op.toNat := by
  simp only [List.lookup_eq_none_iff, opcodeRows, List.mem_cons, List.not_mem_nil, or_false, forall_eq_or_imp,
    forall_eq, bne_iff_ne, ne_eq, ← BitVec.toNat_inj, BitVec.toNat_ofNat]
  omega

/-! ### What the decoder answers -/

theorem decode_eq_reservedBits_iff {w : Word} : decode w = .error .reservedBits ↔ resField w ≠ 0#24 := by
  unfold decode
  split
  · cases opcodeRows.lookup (opField w) <;> simp [*]
  · simp [*]

theorem decode_eq_undefinedOpcode_iff {w : Word} :
    decode w = .error .undefinedOpcode ↔ resField w = 0#24 ∧ opcodeRows.lookup (opField w) = none := by
  unfold decode
  split
  · cases opcodeRows.lookup (opField w) <;> simp [*]
  · simp [*]

theorem decode_eq_ok_iff {w : Word} {i : Instr} :
    decode w = .ok i ↔ resField w = 0#24 ∧ opcodeRows.lookup (opField w) = some i := by
  unfold decode
  split
  · cases opcodeRows.lookup (opField w) <;> simp [*]
  · simp [*]

theorem decode_encode (i : Instr) : decode (encode i) = .ok i := by cases i <;> rfl

/-- Settles O2: the selected row of the map gives the opcode, bits 31:8 are clear in both words. -/
theorem wordSelectsCommandExactlyByTheMap : Obligations.WordSelectsCommandExactlyByTheMap := by
  intro w i
  refine ⟨fun h => ?_, fun h => h ▸ decode_encode i⟩
  obtain ⟨hres, hrow⟩ := decode_eq_ok_iff.mp h
  apply BitVec.eq_of_toNat_eq
  rw [← opField_toNat_of_res hres, opField_of_lookup hrow, opField_toNat_of_res (resField_encode i)]

/-- Settles O3: the reserved bits are clear below 0x100, and there the map leaves out exactly the two ranges. -/
theorem everyOtherWordIsIllegalByName : Obligations.EveryOtherWordIsIllegalByName := by
  intro w
  refine ⟨?_, ?_, ?_⟩
  · rw [decode_eq_reservedBits_iff, ne_eq, resField_eq_zero_iff, Nat.not_lt]
  · rw [decode_eq_undefinedOpcode_iff, resField_eq_zero_iff]
    refine and_congr_right fun hw => ?_
    rw [lookup_eq_none_iff, opField_toNat_of_res (resField_eq_zero_iff.mpr hw)]
  · have hsome : (∃ i, decode w = .ok i) ↔ resField w = 0#24 ∧ opcodeRows.lookup (opField w) ≠ none := by
      simp only [decode_eq_ok_iff, exists_and_left, Option.ne_none_iff_exists']
    rw [hsome, ne_eq, lookup_eq_none_iff, resField_eq_zero_iff, opField_toNat]
    omega

/-- Settles O1: nine encoded commands, and three words outside the map. -/
theorem tableWordsDecode : Obligations.TableWordsDecode :=
  ⟨decode_encode .nop, decode_encode .huffEncode, decode_encode .freqCount, decode_encode .treeBuild,
    decode_encode .codeGen, decode_encode .bitPack, decode_encode .rleImage, decode_encode .rleAudio,
    decode_encode .rleVideo, (everyOtherWordIsIllegalByName _).2.1.mpr (by decide),
    (everyOtherWordIsIllegalByName _).2.1.mpr (by decide), (everyOtherWordIsIllegalByName _).1.mpr (by decide)⟩

end Sys2Proof

namespace Sys2Proof.Machine

/-! ### The completion of an illegal word (R133, R302) -/

theorem engineTurn_illegal {s : State} {why : IllegalWord} (hbusy : s.seq = .busy) (h : decode s.cmd = .error why) :
    engineTurn s = .next (s.raise .illegalCmd 0#32) := by
  simp [engineTurn, hbusy, complete, fetchWord, h, completeIllegal]

/-- Settles O8: both schedules give the engine its turn, which raises ILLEGAL_CMD. -/
theorem illegalWordCompletesWithIllegalCmd : Obligations.IllegalWordCompletesWithIllegalCmd := by
  intro s why rest hbusy hillegal t
  refine ⟨fun hnil => ?_, fun hhead => ?_⟩
  · rw [step_of_nil hnil, engineTurn_illegal hbusy hillegal]
    rfl
  · rw [step_of_engine hhead, engineTurn_illegal (s := s.setInbox rest) hbusy hillegal]
    rfl

end Sys2Proof.Machine
end

section
/-! PROOFS. The encoding family, second part: what an input determines. A sequence has one token list (R230, R232), a
byte sequence one list of samples (R240) and one division into frames of a given length (R245). -/

namespace Sys2Proof.Machine

/-! ### Run tokens (R230, R232) -/

/-- The first element of what a token list reconstructs is the first token's value. -/
theorem head?_expand {α : Type} {toks : List (Token α)} (hcounts : ∀ t ∈ toks, 1 ≤ t.2 ∧ t.2 ≤ 255) :
    (toks.flatMap (fun t => List.replicate t.2 t.1)).head? = toks.head?.map Prod.fst := by
  cases toks with
  | nil => rfl
  | cons t toks =>
    obtain ⟨n, hn⟩ : ∃ n, t.2 = n + 1 := ⟨t.2 - 1, by have := (hcounts t (by simp)).1; omega⟩
    simp [List.flatMap_cons, hn, List.replicate_succ]

theorem MaximalRuns.tail {α : Type} {t : Token α} {toks : List (Token α)} (h : MaximalRuns (t :: toks)) :
    MaximalRuns toks := by
  cases toks with
  | nil => trivial
  | cons u toks => exact h.2

section Tokens

variable {α : Type} [DecidableEq α]

/-- The scan takes in a stretch of its own value up to the cap. -/
theorem tokenizeFrom_replicate (v : α) (tail : List α) :
    ∀ (n c : Nat), c + n ≤ 255 → tokenizeFrom v c (List.replicate n v ++ tail) = tokenizeFrom v (c + n) tail := by
  intro n
  induction n with
  | zero => intro c _; rfl
  | succ n ih =>
    intro c hc
    have hcap : c < Config.runCap := by unfold Config.runCap; omega
    simp only [List.replicate_succ, List.cons_append, tokenizeFrom, hcap, and_self, if_true]
    rw [ih (c + 1) (by omega), show c + 1 + n = c + (n + 1) by omega]

/-- The scan closes its run at the end, before another value, and at the cap. -/
theorem tokenizeFrom_closes {v : α} {c : Nat} {tail : List α} (h : ∀ x ∈ tail.head?, v = x → c = 255) :
    tokenizeFrom v c tail = (v, c) :: tokenize tail := by
  cases tail with
  | nil => rfl
  | cons x xs =>
    have hstop : ¬ (x = v ∧ c < Config.runCap) := by
      rintro ⟨rfl, hlt⟩
      have := h x rfl rfl
      unfold Config.runCap at hlt
      omega
    simp only [tokenizeFrom, if_neg hstop, tokenize]

theorem tokenize_run {v : α} {c : Nat} {tail : List α} (hc : 1 ≤ c ∧ c ≤ 255)
    (h : ∀ x ∈ tail.head?, v = x → c = 255) :
    tokenize (List.replicate c v ++ tail) = (v, c) :: tokenize tail := by
  obtain ⟨n, rfl⟩ : ∃ n, c = 1 + n := ⟨c - 1, by omega⟩
  rw [← tokenizeFrom_closes h, ← tokenizeFrom_replicate v tail n 1 hc.2, Nat.add_comm 1 n]
  rfl

/-- The three facts of R232 leave no other token list than the tokenizer's. -/
theorem EncodesRuns.eq_tokenize {seq : List α} {toks : List (Token α)} (h : EncodesRuns seq toks) :
    toks = tokenize seq := by
  obtain ⟨rfl, hcounts, hmax⟩ := h
  induction toks with
  | nil => rfl
  | cons t toks ih =>
    have hrest : ∀ u ∈ toks, 1 ≤ u.2 ∧ u.2 ≤ 255 := fun u hu => hcounts u (List.mem_cons_of_mem t hu)
    have hclose : ∀ x ∈ (toks.flatMap (fun u => List.replicate u.2 u.1)).head?, t.1 = x → t.2 = 255 := by
      rw [head?_expand hrest]
      cases toks with
      | nil => nofun
      | cons u toks => simpa using hmax.1
    rw [List.flatMap_cons, tokenize_run (hcounts t List.mem_cons_self) hclose, ← ih hrest hmax.tail]

theorem map_tokenize_of_encodesRuns {seqs : List (List α)} {toks : List (List (Token α))}
    (h : List.Forall₂ EncodesRuns seqs toks) : seqs.map tokenize = toks := by
  induction h with
  | nil => rfl
  | cons hhead _ ih => rw [List.map_cons, ih, ← hhead.eq_tokenize]

end Tokens

/-! ### Audio samples (R240) -/

theorem samples_length : ∀ l : List Byte, (samples l).length = l.length / 2
  | [] => rfl
  | [_] => by simp [samples]
  | lo :: hi :: rest => by
    simp only [samples, List.length_cons, samples_length rest]
    omega

/-- Sample `k` is the two bytes from position `2k` up, the low one first. -/
theorem samples_getElem? : ∀ (l : List Byte) (k : Nat) (lo hi : Byte),
    l[2 * k]? = some lo → l[2 * k + 1]? = some hi → (samples l)[k]? = some (hi ++ lo)
  | [], _, _, _, h, _ => by simp at h
  | [_], _, _, _, _, h => by simp at h
  | a :: b :: rest, 0, lo, hi, hlo, hhi => by
    obtain rfl : a = lo := by simpa using hlo
    obtain rfl : b = hi := by simpa using hhi
    simp [samples]
  | _ :: _ :: rest, k + 1, lo, hi, hlo, hhi => by
    rw [samples, List.getElem?_cons_succ]
    exact samples_getElem? rest k lo hi hlo hhi

theorem append_byte_toNat (hi lo : Byte) : (hi ++ lo).toNat = lo.toNat + 256 * hi.toNat := by
  rw [BitVec.toNat_append, ← Nat.shiftLeft_add_eq_or_of_lt lo.isLt, Nat.shiftLeft_eq]
  omega

/-- The samples of an input of even length are fixed by the byte values in SRC. -/
theorem State.samples_input {s : State} {smps : List (BitVec 16)} (hlen : 2 * smps.length = s.srcLen.toNat)
    (hval : ∀ k w, smps[k]? = some w → w.toNat =
      (s.src.read (s.srcOff.toNat + 2 * k)).toNat + 256 * (s.src.read (s.srcOff.toNat + 2 * k + 1)).toNat) :
    samples s.input = smps := by
  have hbyte : ∀ i, i < s.srcLen.toNat → s.input[i]? = some (s.src.read (s.srcOff.toNat + i)) :=
    (inputIsTheAddressedBytes s).2
  apply List.ext_getElem?
  intro k
  rcases Nat.lt_or_ge k smps.length with hk | hk
  · rw [samples_getElem? _ k _ _ (hbyte (2 * k) (by omega)) (hbyte (2 * k + 1) (by omega)),
      List.getElem?_eq_getElem hk, Option.some_inj]
    apply BitVec.eq_of_toNat_eq
    rw [append_byte_toNat, hval k _ (List.getElem?_eq_getElem hk), Nat.add_assoc]
  · rw [List.getElem?_eq_none hk, List.getElem?_eq_none (by rw [samples_length, s.input_length]; omega)]

/-! ### Video frames (R245) -/

theorem length_flatten_of_uniform {fl : Nat} {frs : List (List Byte)} (h : ∀ fr ∈ frs, fr.length = fl) :
    frs.flatten.length = frs.length * fl := by
  rw [List.length_flatten, List.map_congr_left h, List.map_const', List.sum_replicate, smul_eq_mul]

/-- The first frame of an input is its first `fl` bytes. -/
theorem frames_append {fl : Nat} (hfl : 0 < fl) {fr : List Byte} (hlen : fr.length = fl) (rest : List Byte) :
    frames fl (fr ++ rest) = fr :: frames fl rest := by
  have hcount : (fr ++ rest).length / fl = rest.length / fl + 1 := by
    rw [List.length_append, hlen, Nat.add_div_left _ hfl]
  have hdrop : ∀ f, (fr ++ rest).drop ((f + 1) * fl) = rest.drop (f * fl) := by
    intro f
    rw [Nat.succ_mul, Nat.add_comm, ← List.drop_drop, ← hlen, List.drop_left]
  simp only [frames, hcount, List.range_succ_eq_map, List.map_cons, List.map_map, Function.comp_def,
    Nat.succ_eq_add_one, hdrop]
  simp [← hlen]

/-- Frames of one length are found again in their concatenation. -/
theorem frames_flatten {fl : Nat} (hfl : 0 < fl) {frs : List (List Byte)} (h : ∀ fr ∈ frs, fr.length = fl) :
    frames fl frs.flatten = frs := by
  induction frs with
  | nil => simp [frames]
  | cons fr frs ih =>
    rw [List.flatten_cons, frames_append hfl (h fr List.mem_cons_self),
      ih fun fr' hfr' => h fr' (List.mem_cons_of_mem fr hfr')]

end Sys2Proof.Machine
end

section
/-! PROOFS. The encoding family, third part: the frames of the nine commands (R131, R150, R303). What a command may
change is read off three operations: writing a table, the output rule, and the completion record. -/

namespace Sys2Proof.Machine

/-! ### What the operations leave alone -/

theorem Untouched.trans {s t u : State} (h : Untouched s t) (h' : Untouched t u) : Untouched s u := by
  simp_all [Untouched]

theorem untouched_finish (e : ErrCode) (info : Word) (r : Results) (s : State) : Untouched s (s.finish e info r) := by
  simp [Untouched]

theorem untouched_succeed (r : Results) (s : State) : Untouched s (s.succeed r) := untouched_finish _ _ _ _

theorem untouched_raise (e : ErrCode) (info : Word) (s : State) : Untouched s (s.raise e info) :=
  untouched_finish _ _ _ _

theorem untouched_putFreq (table : List Word) (s : State) : Untouched s (s.putFreq table) := by simp [Untouched]

theorem untouched_putTree (tree : List Node) (s : State) : Untouched s (s.putTree tree) := by simp [Untouched]

theorem untouched_putCodes (codes : List BitString) (s : State) : Untouched s (s.putCodes codes) := by simp [Untouched]

theorem untouched_putOutput (out : List Byte) (s : State) : Untouched s (s.putOutput out) := by simp [Untouched]

theorem untouched_withInputTables (s : State) : Untouched s s.withInputTables :=
  ((untouched_putFreq _ s).trans (untouched_putTree _ _)).trans (untouched_putCodes _ _)

theorem sameTables_raise (e : ErrCode) (info : Word) (s : State) : SameTables s (s.raise e info) := by
  simp [SameTables]

/-! ### The output rule (R150) -/

theorem State.emit_errCode (r : Results) (out : List Byte) (s : State) :
    (s.emit r out).errCode = .none ∨ (s.emit r out).errCode = .dstOverflow := by
  rcases s.emit_cases r out with ⟨-, h⟩ | ⟨-, h⟩ <;> simp [h]

theorem untouched_emit (r : Results) (out : List Byte) (s : State) : Untouched s (s.emit r out) := by
  rcases s.emit_cases r out with ⟨-, h⟩ | ⟨-, h⟩
  · rw [h]
    exact (untouched_putOutput out s).trans (untouched_succeed r _)
  · rw [h]
    exact untouched_finish _ _ _ _

theorem sameTables_emit (r : Results) (out : List Byte) (s : State) : SameTables s (s.emit r out) := by
  rcases s.emit_cases r out with ⟨-, h⟩ | ⟨-, h⟩ <;> simp [h, SameTables]

/-- What a command may do to DST: a success writes OUT_LEN bytes from DST_OFF up, an error writes nothing (R150,
R303). -/
def StoresOnlyOutput (s t : State) : Prop :=
  (t.errCode = .none → DstKeptOutside t.results.outLen.toNat s t) ∧ (t.errCode ≠ .none → t.dst = s.dst)

theorem storesOnlyOutput_raise (e : ErrCode) (info : Word) (s : State) : StoresOnlyOutput s (s.raise e info) :=
  ⟨fun _ _ _ => rfl, fun _ => rfl⟩

/-- An output that fits is shorter than 2^24 bytes, so OUT_LEN is its exact length (R8, R44). -/
theorem storesOnlyOutput_emit {r : Results} {out : List Byte} {s : State} (hp : s.params.wf = true)
    (hr : r.outLen = BitVec.ofNat 32 out.length) : StoresOnlyOutput s (s.emit r out) := by
  rcases s.emit_cases r out with ⟨hfits, h⟩ | ⟨-, h⟩
  · rw [h]
    refine ⟨fun _ a ha => ?_, nofun⟩
    have hsize : s.params.dstSize ≤ Config.maxSize := (Params.wf_iff.mp hp).2.2
    have hlen : out.length < 2 ^ 32 := by unfold Config.maxSize at hsize; omega
    rw [State.succeed_results, hr, BitVec.toNat_ofNat, Nat.mod_eq_of_lt hlen] at ha
    exact Memory.read_writeBytes_outside out s.dst s.dstOff.toNat a ha
  · rw [h]
    exact ⟨nofun, fun _ => rfl⟩

/-! ### The commands that write DST (R131) -/

/-- The state in which a command emits its output: HUFF_ENCODE has written the tables of its input before (R185). -/
def outputState : Instr → State → State
  | .huffEncode, s => s.withInputTables
  | _, s => s

theorem untouched_outputState (i : Instr) (s : State) : Untouched s (outputState i s) := by
  unfold outputState
  split
  · exact untouched_withInputTables s
  · simp [Untouched]

/-- Only HUFF_ENCODE emits from another state than the one it found. -/
theorem outputState_of_ne {i : Instr} (hne : i ≠ .huffEncode) (s : State) : outputState i s = s := by
  unfold outputState
  split
  · exact absurd rfl hne
  · rfl

theorem outputState_dst (i : Instr) (s : State) : (outputState i s).dst = s.dst := by cases i <;> rfl

/-- Everything a command that writes DST can do: raise an error, or emit an output with its length in OUT_LEN. -/
theorem exec_output_cases {i : Instr} {s t : State} (hi : writesDst i = true) (h : exec i s = .next t) :
    (∃ e info, t = s.raise e info) ∨
    ∃ r out, r.outLen = BitVec.ofNat 32 out.length ∧ t = (outputState i s).emit r out := by
  cases i with
  | nop | freqCount | treeBuild | codeGen => cases hi
  | huffEncode =>
    rcases execHuffEncode_cases h with ⟨e, -, rfl⟩ | ⟨-, rfl⟩
    · exact .inl ⟨e, _, rfl⟩
    · exact .inr ⟨_, _, by rw [huffmanStream_length]; rfl, rfl⟩
  | bitPack =>
    rcases execBitPack_cases h with ⟨-, rfl⟩ | ⟨-, e, -, rfl⟩ | ⟨-, -, k, -, rfl⟩ | ⟨-, -, -, rfl⟩
    · exact .inl ⟨_, _, rfl⟩
    · exact .inl ⟨e, _, rfl⟩
    · exact .inl ⟨_, _, rfl⟩
    · exact .inr ⟨_, _, by rw [huffmanStream_length]; rfl, rfl⟩
  | rleImage =>
    rcases execRleImage_cases h with ⟨e, -, rfl⟩ | ⟨-, rfl⟩
    · exact .inl ⟨e, _, rfl⟩
    · exact .inr ⟨_, _, by rw [imageStream_length]; rfl, rfl⟩
  | rleAudio =>
    rcases execRleAudio_cases h with ⟨e, -, rfl⟩ | ⟨-, rfl⟩
    · exact .inl ⟨e, _, rfl⟩
    · exact .inr ⟨_, _, by rw [audioStream_length]; rfl, rfl⟩
  | rleVideo =>
    rcases execRleVideo_cases h with ⟨e, -, rfl⟩ | ⟨-, rfl⟩
    · exact .inl ⟨e, _, rfl⟩
    · exact .inr ⟨_, _, by rw [videoStream_length]; rfl, rfl⟩

/-- The frame of the five commands that write DST, but for the tables. -/
theorem exec_output_frame {i : Instr} {s t : State} (hi : writesDst i = true) (hp : s.params.wf = true)
    (h : exec i s = .next t) : Untouched s t ∧ StoresOnlyOutput s t := by
  rcases exec_output_cases hi h with ⟨e, info, rfl⟩ | ⟨r, out, hr, rfl⟩
  · exact ⟨untouched_raise e info s, storesOnlyOutput_raise e info s⟩
  · have hu := untouched_outputState i s
    refine ⟨hu.trans (untouched_emit r out _), ?_⟩
    obtain ⟨hparams, -, -, -, -, hoff, -⟩ := hu
    have hstore : StoresOnlyOutput (outputState i s) _ := storesOnlyOutput_emit (hparams ▸ hp) hr
    rwa [StoresOnlyOutput, DstKeptOutside, hoff, outputState_dst] at hstore

theorem exec_output_sameTables {i : Instr} {s t : State} (hi : writesDst i = true) (hne : i ≠ .huffEncode)
    (h : exec i s = .next t) : SameTables s t := by
  rcases exec_output_cases hi h with ⟨e, info, rfl⟩ | ⟨r, out, -, rfl⟩
  · exact sameTables_raise e info s
  · rw [outputState_of_ne hne]
    exact sameTables_emit r out s

/-- An error of the input checks is raised before the tables are written (R185, R304). -/
theorem huffEncode_rejected_sameTables {s t : State} (h : exec .huffEncode s = .next t)
    (hcode : t.errCode = .srcRange ∨ t.errCode = .emptyInput) : SameTables s t := by
  rcases exec_output_cases rfl h with ⟨e, info, rfl⟩ | ⟨r, out, -, rfl⟩
  · exact sameTables_raise e info s
  · rcases State.emit_errCode r out (outputState .huffEncode s) with hc | hc <;> simp [hc] at hcode

/-- Settles O49: the run-length commands write DST and are not HUFF_ENCODE. -/
theorem runLengthCommandsFrame : Obligations.RunLengthCommandsFrame := by
  intro i s t hi hp h
  have hkind : writesDst i = true ∧ i ≠ .huffEncode := by rcases hi with rfl | rfl | rfl <;> decide
  obtain ⟨hu, hstore⟩ := exec_output_frame hkind.1 hp h
  exact ⟨hu, exec_output_sameTables hkind.1 hkind.2 h, hstore⟩

/-- Settles O50: BIT_PACK writes no table, HUFF_ENCODE none when it rejects its input. -/
theorem packingCommandsFrame : Obligations.PackingCommandsFrame := by
  intro i s t hi hp h
  have hwrites : writesDst i = true := by rcases hi with rfl | rfl <;> rfl
  obtain ⟨hu, hstore⟩ := exec_output_frame hwrites hp h
  refine ⟨hu, fun hkeep => ?_, hstore⟩
  rcases hi with rfl | rfl
  · exact exec_output_sameTables hwrites nofun h
  · exact huffEncode_rejected_sameTables h (hkeep.resolve_left nofun)

/-! ### The commands that store nothing (R67, R282) -/

/-- Settles O51, from what each of the four commands can do. -/
theorem nonStoringCommandsFrame : Obligations.NonStoringCommandsFrame := by
  intro i s t hi h
  rcases hi with rfl | rfl | rfl | rfl
  · obtain rfl := execNop_cases h
    exact ⟨untouched_succeed _ _, rfl, fun _ => ⟨⟨rfl, rfl, rfl, rfl, rfl, rfl⟩, rfl⟩, nofun, nofun, nofun⟩
  · rcases execFreqCount_cases h with ⟨e, -, rfl⟩ | ⟨-, rfl⟩
    · exact ⟨untouched_raise _ _ _, rfl, nofun, fun _ => ⟨rfl, rfl⟩, nofun, nofun⟩
    · exact ⟨(untouched_putFreq _ _).trans (untouched_succeed _ _), rfl, nofun, fun _ => ⟨rfl, rfl⟩, nofun, nofun⟩
  · rcases execTreeBuild_cases h with ⟨-, rfl⟩ | ⟨-, rfl⟩
    · exact ⟨(untouched_putTree _ _).trans (untouched_succeed _ _), rfl, nofun, nofun, fun _ => ⟨rfl, rfl, rfl⟩, nofun⟩
    · exact ⟨untouched_raise _ _ _, rfl, nofun, nofun, fun _ => ⟨rfl, rfl, rfl⟩, nofun⟩
  · rcases execCodeGen_cases h with ⟨-, rfl⟩ | ⟨-, rfl⟩
    · exact ⟨(untouched_putCodes _ _).trans (untouched_succeed _ _), rfl, nofun, nofun, nofun,
        fun _ => ⟨rfl, rfl, rfl, rfl⟩⟩
    · exact ⟨untouched_raise _ _ _, rfl, nofun, nofun, nofun, fun _ => ⟨rfl, rfl, rfl, rfl⟩⟩

end Sys2Proof.Machine
end

section
/-! PROOFS. The encoding family, fourth part: the output that does not fit (R150, R287, R305). -/

namespace Sys2Proof.Machine

/-! ### The commands on an input they accept (R304) -/

theorem exec_huffEncode_accepted {s : State} (hin : s.inputError = none) :
    exec .huffEncode s = .next (packOutput s.input (gen (build (freq s.input))) s.withInputTables) := by
  simp [exec, execHuffEncode, hin, State.withInputTables]

theorem exec_bitPack_accepted {s : State} (hct : s.ctValid = true) (hin : s.inputError = none)
    (hcodes : ∀ b ∈ s.input, codeOf s.ct b ≠ []) : exec .bitPack s = .next (packOutput s.input s.ct s) := by
  have hmissing : firstMissing s.input s.ct = none := by simpa [firstMissing, List.findIdx?_eq_none_iff] using hcodes
  simp [exec, execBitPack, hct, hin, hmissing]

theorem exec_rleImage_accepted {s : State} (hin : s.inputError = none) :
    exec .rleImage s = .next (imageOutput (tokenize s.input) s) := by
  simp [exec, execRleImage, hin]

theorem exec_rleAudio_accepted {s : State} (hin : s.inputError = none) (heven : s.srcLen.toNat % 2 = 0) :
    exec .rleAudio s = .next (audioOutput (tokenize (samples s.input)) s) := by
  simp [exec, execRleAudio, State.audioError_eq_none.mpr ⟨hin, heven⟩]

theorem exec_rleVideo_accepted {s : State} (hin : s.inputError = none) (hpos : 0 < s.frameLen.toNat)
    (hdvd : s.srcLen.toNat % s.frameLen.toNat = 0) :
    exec .rleVideo s = .next (videoOutput ((frames s.frameLen.toNat s.input).map tokenize) s) := by
  simp [exec, execRleVideo, State.videoError_eq_none.mpr ⟨hin, hpos, hdvd⟩]

/-! ### The frames of an input that frames fill exactly -/

theorem State.srcLen_mod_frameLen {s : State} {frs : List (List Byte)} (hflat : frs.flatten = s.input)
    (hlen : ∀ fr ∈ frs, fr.length = s.frameLen.toNat) : s.srcLen.toNat % s.frameLen.toNat = 0 := by
  rw [← s.input_length, ← hflat, length_flatten_of_uniform hlen, Nat.mul_mod_left]

theorem State.frames_input {s : State} {frs : List (List Byte)} (hpos : 0 < s.frameLen.toNat)
    (hflat : frs.flatten = s.input) (hlen : ∀ fr ∈ frs, fr.length = s.frameLen.toNat) :
    frames s.frameLen.toNat s.input = frs := by
  rw [← hflat, frames_flatten hpos hlen]

/-! ### The overflow (R150) -/

/-- An output too long for DST ends in the overflow completion with no table changed. -/
theorem State.emit_overflowed {r : Results} {out : List Byte} {s : State} {n : Nat} (hn : out.length = n)
    (h : s.params.dstSize < s.dstOff.toNat + n) : SameTables s (s.emit r out) ∧ Overflowed r s (s.emit r out) := by
  refine ⟨sameTables_emit r out s, ?_⟩
  rw [State.emit_overflow (hn ▸ h)]
  exact ⟨⟨rfl, rfl, rfl, rfl⟩, rfl, untouched_finish _ _ _ _, rfl⟩

theorem packOutput_overflowed {input : List Byte} {codes : List BitString} {s : State}
    (h : s.params.dstSize < s.dstOff.toNat +
      (1 + ((concatCodes input codes).length + padCount (concatCodes input codes).length) / 8)) :
    SameTables s (packOutput input codes s) ∧
    Overflowed (huffmanResults (concatCodes input codes).length) s (packOutput input codes s) :=
  State.emit_overflowed (huffmanStream_length _) h

theorem overflowed_withInputTables {r : Results} {s t : State} (h : Overflowed r s.withInputTables t) :
    Overflowed r s t := by
  obtain ⟨hrecorded, hresults, hu, hdst⟩ := h
  exact ⟨hrecorded, hresults, (untouched_withInputTables s).trans hu, hdst⟩

/-- Settles O45: each command emits the stream of its accepted input, the token lists being the tokenizer's. -/
theorem overflowWritesNothingAndReportsTheLength : Obligations.OverflowWritesNothingAndReportsTheLength := by
  intro s hrange hne
  have hin : s.inputError = none := State.inputError_eq_none.mpr ⟨hrange, hne⟩
  refine ⟨?_, ?_, ?_, ?_, ?_⟩
  · intro toks htoks hover
    refine ⟨_, exec_rleImage_accepted hin, ?_⟩
    rw [← htoks.eq_tokenize]
    exact State.emit_overflowed (imageStream_length toks) hover
  · intro smps toks hlen hval htoks hover
    refine ⟨_, exec_rleAudio_accepted hin (by omega), ?_⟩
    rw [State.samples_input hlen hval, ← htoks.eq_tokenize]
    exact State.emit_overflowed (audioStream_length toks) hover
  · intro frs toks hpos hflat hlen htoks total hover
    refine ⟨_, exec_rleVideo_accepted hin hpos (State.srcLen_mod_frameLen hflat hlen), ?_⟩
    rw [State.frames_input hpos hflat hlen, map_tokenize_of_encodesRuns htoks]
    rw [htoks.length_eq] at hover ⊢
    exact State.emit_overflowed (videoStream_length toks) hover
  · intro hct hcodes len pad hover
    exact ⟨_, exec_bitPack_accepted hct hin hcodes, packOutput_overflowed hover⟩
  · intro len pad hover
    obtain ⟨⟨hft, hnodes, hcodes, hftValid, htreeValid, hctValid⟩, hoverflowed⟩ :=
      packOutput_overflowed (s := s.withInputTables) hover
    exact ⟨_, exec_huffEncode_accepted hin, hft, hnodes.trans (congrArg build hft.symm),
      hcodes.trans (congrArg gen hnodes.symm), hftValid, htreeValid, hctValid, overflowed_withInputTables hoverflowed⟩

end Sys2Proof.Machine
end

section
/-! PROOFS. The Huffman family (spec/40_huffman.md), first part: FREQ_COUNT, and the commands that pack (R140, R161, R182,
R185). BIT_PACK and HUFF_ENCODE end in the same packing of an input with a code table, so what a packing writes and
records is said once. -/

namespace Sys2Proof.Machine

/-! ### FREQ_COUNT (R160, R161) -/

theorem Memory.readBytes_eq_map (m : Memory) (a k : Nat) :
    m.readBytes a k = (List.range k).map (fun i => m.read (a + i)) :=
  List.ext_getElem (by simp) fun i h _ => by rw [Memory.readBytes_getElem]; simp

/-- An input inside SRC has less than 2^32 bytes (R8). -/
theorem State.input_length_lt {s : State} (hp : s.params.wf = true)
    (hrange : s.srcOff.toNat + s.srcLen.toNat ≤ s.params.srcSize) : s.input.length < 2 ^ 32 := by
  have hsize : s.params.srcSize ≤ 2 ^ 24 := (Params.wf_iff.mp hp).1.2
  have hlen : s.srcLen.toNat ≤ s.params.srcSize := (Nat.le_add_left _ _).trans hrange
  rw [State.input_length]
  omega

/-- A count of fewer than 2^32 bytes does not wrap. -/
theorem freqOf_freq_toNat {input : List Byte} (hlen : input.length < 2 ^ 32) (v : Byte) :
    (freqOf (freq input) v).toNat = input.count v := by
  rw [freqOf_freq, BitVec.toNat_ofNat, Nat.mod_eq_of_lt (lt_of_le_of_lt List.count_le_length hlen)]

/-- Occurrences in the input are positions of the addressed bytes (R17). -/
theorem State.count_input (s : State) (v : Byte) :
    s.input.count v =
      (List.range s.srcLen.toNat).countP (fun i => decide (s.src.read (s.srcOff.toNat + i) = v)) := by
  rw [State.input, Memory.readBytes_eq_map, List.count, List.countP_map]
  rfl

theorem exec_freqCount_accepted {s : State} (hin : s.inputError = none) :
    exec .freqCount s = .next ((s.putFreq (freq s.input)).succeed Results.zero) := by
  simp [exec, execFreqCount, hin]

/-- Settles O33: no count of an input inside SRC wraps. -/
theorem freqCountCountsEverySymbol : Obligations.FreqCountCountsEverySymbol := by
  intro s hp hrange hne
  refine ⟨_, exec_freqCount_accepted (State.inputError_eq_none.mpr ⟨hrange, hne⟩), ⟨rfl, rfl, rfl, rfl⟩,
    freq_length _, fun v => ?_, rfl, rfl, rfl, rfl, (untouched_putFreq _ s).trans (untouched_succeed _ _), rfl, rfl, rfl⟩
  exact (freqOf_freq_toNat (State.input_length_lt hp hrange) v).trans (s.count_input v)

/-! ### What a packing writes (R140, R150) -/

/-- An output that fits reads back where it was written, and nowhere else has DST changed. -/
theorem State.emit_written {r : Results} {out : List Byte} {s : State}
    (h : s.dstOff.toNat + out.length ≤ s.params.dstSize) :
    Recorded .none 0#32 (s.emit r out) ∧ (s.emit r out).dst.readBytes s.dstOff.toNat out.length = out ∧
    DstKeptOutside out.length s (s.emit r out) ∧ (s.emit r out).results = r := by
  rw [State.emit_fits h]
  exact ⟨⟨rfl, rfl, rfl, rfl⟩, Memory.readBytes_writeBytes _ _ _, Memory.read_writeBytes_outside out s.dst _, rfl⟩

/-- The number of bytes of the Huffman stream of `len` code bits (R182). -/
def huffmanLength (len : Nat) : Nat := 1 + (len + padCount len) / 8

/-- `t` is `s` after the code bits `bits` have been packed (R140, R182), but for the tables. -/
def Packed (bits : BitString) (s t : State) : Prop :=
  Recorded .none 0#32 t ∧
  (t.dst.readBytes s.dstOff.toNat (huffmanLength bits.length)).flatMap bin8 =
    bin8 (BitVec.ofNat 8 (padCount bits.length)) ++ bits ++ zeros (padCount bits.length) ∧
  DstKeptOutside (huffmanLength bits.length) s t ∧
  t.results = huffmanResults bits.length ∧ Untouched s t

theorem packOutput_packed {input : List Byte} {codes : List BitString} {s : State}
    (h : s.dstOff.toNat + huffmanLength (concatCodes input codes).length ≤ s.params.dstSize) :
    Packed (concatCodes input codes) s (packOutput input codes s) := by
  have hlen : (huffmanStream (concatCodes input codes)).length = huffmanLength _ := huffmanStream_length _
  rw [← hlen] at h
  obtain ⟨hrecorded, hread, hkept, hresults⟩ := State.emit_written (r := huffmanResults _) h
  refine ⟨hrecorded, ?_, hlen ▸ hkept, hresults, untouched_emit _ _ _⟩
  rw [← hlen]
  exact (congrArg (List.flatMap bin8) hread).trans (huffmanStream_bits _)

/-! ### BIT_PACK (R182) -/

/-- Settles O36: BIT_PACK packs the codes of an input it accepts. -/
theorem bitPackWritesTheCodesInOrder : Obligations.BitPackWritesTheCodesInOrder := by
  intro s hct hrange hne hcodes bits pad n hfits
  obtain ⟨hrecorded, hbits, hkept, hresults, hu⟩ := packOutput_packed (codes := s.ct) hfits
  exact ⟨_, exec_bitPack_accepted hct (State.inputError_eq_none.mpr ⟨hrange, hne⟩) hcodes, hrecorded, hbits, hkept,
    hresults, hu, sameTables_emit _ _ _⟩

theorem firstMissing_eq_some {input : List Byte} {codes : List BitString} {k : Nat} :
    firstMissing input codes = some k ↔
      ∃ h : k < input.length, codeOf codes input[k] = [] ∧ ∀ j, (hj : j < k) → codeOf codes input[j] ≠ [] := by
  simp [firstMissing, List.findIdx?_eq_some_iff_getElem]

theorem exec_bitPack_missing {s : State} {k : Nat} (hct : s.ctValid = true) (hin : s.inputError = none)
    (hmissing : firstMissing s.input s.ct = some k) :
    exec .bitPack s = .next (s.raise .missingCode (BitVec.ofNat 32 k)) := by
  simp [exec, execBitPack, hct, hin, hmissing]

/-- Settles O44: the check for a missing code comes before the packing and finds the first position. -/
theorem missingCodeNamesTheFirstPosition : Obligations.MissingCodeNamesTheFirstPosition := by
  intro s k hct hrange hk hmissing hbefore
  have hin : s.inputError = none := State.inputError_eq_none.mpr ⟨hrange, by omega⟩
  have hfirst : firstMissing s.input s.ct = some k := by
    refine firstMissing_eq_some.mpr ⟨s.input_length.symm ▸ hk, ?_, fun j hj => ?_⟩ <;> rw [State.input_getElem]
    · exact hmissing
    · exact hbefore j hj
  exact ⟨_, exec_bitPack_missing hct hin hfirst, ⟨rfl, rfl, rfl, rfl⟩, rfl, untouched_raise _ _ _,
    sameTables_raise _ _ _, rfl⟩

/-! ### HUFF_ENCODE (R185) -/

theorem packed_withInputTables {bits : BitString} {s t : State} (h : Packed bits s.withInputTables t) :
    Packed bits s t := by
  obtain ⟨hrecorded, hbits, hkept, hresults, hu⟩ := h
  exact ⟨hrecorded, hbits, hkept, hresults, (untouched_withInputTables s).trans hu⟩

/-- Settles O37: HUFF_ENCODE packs its input in a state that holds the input's tables. -/
theorem huffEncodeWritesTheComposedStream : Obligations.HuffEncodeWritesTheComposedStream := by
  intro s hrange hne codes bits pad n hfits
  obtain ⟨hft, hnodes, hct, hftValid, htreeValid, hctValid⟩ : SameTables s.withInputTables _ :=
    sameTables_emit (huffmanResults bits.length) (huffmanStream bits) _
  obtain ⟨hrecorded, hbits, hkept, hresults, hu⟩ :=
    packed_withInputTables (packOutput_packed (codes := codes) (s := s.withInputTables) hfits)
  exact ⟨_, exec_huffEncode_accepted (State.inputError_eq_none.mpr ⟨hrange, hne⟩), hrecorded, hft,
    hnodes.trans (congrArg build hft.symm), hct.trans (congrArg gen hnodes.symm), hftValid, htreeValid, hctValid,
    hbits, hkept, hresults, hu⟩

/-- Settles O58: the tables are overwritten before the packing, and nothing else reads them. -/
theorem huffEncodeIgnoresEarlierTables : Obligations.HuffEncodeIgnoresEarlierTables := by
  intro s ft nodes ct a b c hrange hne
  have hin : s.inputError = none := State.inputError_eq_none.mpr ⟨hrange, hne⟩
  have hin' : State.inputError { s with ft := ft, nodes := nodes, ct := ct, ftValid := a, treeValid := b, ctValid := c } =
    none := hin
  rw [exec_huffEncode_accepted hin, exec_huffEncode_accepted hin']
  rfl

/-! ### The result registers of a successful packing (R181, R186) -/

theorem State.inputError_ne_none {s : State} {e : ErrCode} (h : s.inputError = some e) : e ≠ .none := by
  obtain rfl | rfl := State.inputError_cases h <;> exact nofun

/-- A successful HUFF_ENCODE or BIT_PACK ends in a packing whose output fits into DST. -/
theorem exec_packing_fits {i : Instr} {s t : State} (hi : i = .huffEncode ∨ i = .bitPack) (h : exec i s = .next t)
    (hok : t.errCode = .none) :
    ∃ len, t.results = huffmanResults len ∧ huffmanLength len ≤ s.params.dstSize := by
  have hpack : ∃ input codes, t = packOutput input codes (outputState i s) := by
    obtain rfl | rfl := hi
    · obtain ⟨e, hin, rfl⟩ | ⟨-, rfl⟩ := execHuffEncode_cases h
      · exact absurd hok (State.inputError_ne_none hin)
      · exact ⟨_, _, rfl⟩
    · obtain ⟨-, rfl⟩ | ⟨-, e, hin, rfl⟩ | ⟨-, -, k, -, rfl⟩ | ⟨-, -, -, rfl⟩ := execBitPack_cases h
      · cases hok
      · exact absurd hok (State.inputError_ne_none hin)
      · cases hok
      · exact ⟨_, _, rfl⟩
  obtain ⟨input, codes, rfl⟩ := hpack
  have hparams := (untouched_outputState i s).1
  refine ⟨(concatCodes input codes).length, ?_⟩
  unfold packOutput at hok ⊢
  obtain ⟨hfits, hemit⟩ | ⟨-, hemit⟩ := State.emit_cases (huffmanResults (concatCodes input codes).length)
    (huffmanStream (concatCodes input codes)) (outputState i s)
  · rw [huffmanStream_length, hparams] at hfits
    exact ⟨congrArg State.results hemit, by unfold huffmanLength; omega⟩
  · rw [hemit] at hok
    cases hok

/-- Settles O53: an output that fits is so short that no result register wraps. -/
theorem padAccountsForTheLastByte : Obligations.PadAccountsForTheLastByte := by
  intro i s t hi hp h hok
  obtain ⟨len, hresults, hfits⟩ := exec_packing_fits hi h hok
  have hsize : s.params.dstSize ≤ 2 ^ 24 := (Params.wf_iff.mp hp).2.2
  simp only [hresults, huffmanResults, huffmanLength, padCount, BitVec.toNat_ofNat] at hfits ⊢
  omega

/-! ### HUFF_ENCODE as a chain of units (R185) -/

/-- The completion record that a state carries is overwritten by the next command's output rule. -/
theorem State.emit_succeed (r r' : Results) (out : List Byte) (s : State) :
    (s.succeed r').emit r out = s.emit r out := by
  unfold State.emit
  split
  · exact (if_pos ‹_›).symm
  · exact (if_neg ‹_›).symm

theorem exec_treeBuild_valid {s : State} (hft : s.ftValid = true) :
    exec .treeBuild s = .next ((s.putTree (build s.ft)).succeed Results.zero) := by
  simp [exec, execTreeBuild, hft]

theorem exec_codeGen_valid {s : State} (htree : s.treeValid = true) :
    exec .codeGen s = .next ((s.putCodes (gen s.nodes)).succeed Results.zero) := by
  simp [exec, execCodeGen, htree]

/-- Every byte of a counted input has a code in the tree of its own counts (R185): MISSING_CODE cannot occur. -/
theorem codeOf_own_input_ne_nil {input : List Byte} (hlen : input.length < 2 ^ 32) {b : Byte} (hb : b ∈ input) :
    codeOf (gen (build (freq input))) b ≠ [] := by
  have hpresent : b ∈ presentSymbols (freq input) := by
    refine mem_presentSymbols.mpr fun h0 => ?_
    have hcount := freqOf_freq_toNat hlen b
    rw [h0] at hcount
    exact absurd hcount.symm (List.count_pos_iff.mpr hb).ne'
  exact (codeOf_build_ne_nil (List.length_pos_of_mem hpresent) b).mpr hpresent

/-- Settles O59: the units leave the tables of the input, and BIT_PACK overwrites their completion records. -/
theorem huffEncodeEqualsTheChainOfUnits : Obligations.HuffEncodeEqualsTheChainOfUnits := by
  intro s hp hrange hne
  have hin : s.inputError = none := State.inputError_eq_none.mpr ⟨hrange, hne⟩
  have hcodes := fun b => codeOf_own_input_ne_nil (b := b) (State.input_length_lt hp hrange)
  refine ⟨_, _, _, _, exec_freqCount_accepted hin, exec_treeBuild_valid rfl, exec_codeGen_valid rfl,
    exec_bitPack_accepted rfl hin hcodes, ?_⟩
  rw [exec_huffEncode_accepted hin]
  exact congrArg Host.Outcome.next (State.emit_succeed _ Results.zero _ s.withInputTables).symm

end Sys2Proof.Machine
end

section
/-! PROOFS. The Huffman family, second part: the tree (R62, R63, R165 to R170). `IsMerging` adds to the forest of the merge
loop what the queue knows of its entries, so that the two entries taken out are the two waiting nodes of least key. -/

namespace Sys2Proof.Machine

/-! ### The least entry of the queue (R166) -/

theorem keyBefore_iff {a b : QueueEntry} :
    keyBefore a b = true ↔ a.freq.toNat < b.freq.toNat ∨ (a.freq.toNat = b.freq.toNat ∧ a.node < b.node) := by
  simp [keyBefore]

/-- No entry that stays in the queue comes before the one taken out. -/
theorem extractMin_least : ∀ {queue rest : List QueueEntry} {m : QueueEntry},
    extractMin queue = some (m, rest) → ∀ e ∈ rest, ¬ keyBefore e m = true
  | [], _, _, h => by cases h
  | k :: ks, rest, m, h => by
    unfold extractMin at h
    split at h
    · obtain ⟨-, rfl⟩ : k = m ∧ [] = rest := by simpa using h
      exact fun e he => absurd he List.not_mem_nil
    · rename_i m' rest' hks
      have ih := extractMin_least hks
      split at h
      · rename_i hkm
        obtain ⟨rfl, rfl⟩ : k = m ∧ m' :: rest' = rest := by simpa using h
        intro e he
        rw [keyBefore_iff] at hkm ⊢
        obtain rfl | he := List.mem_cons.mp he
        · omega
        · have hem := ih e he
          rw [keyBefore_iff] at hem
          omega
      · rename_i hkm
        obtain ⟨rfl, rfl⟩ : m' = m ∧ k :: rest' = rest := by simpa using h
        intro e he
        obtain rfl | he := List.mem_cons.mp he
        · exact hkm
        · exact ih e he

/-- As `mergeLoop_induction`, for what also needs that the two entries taken out are the least ones. -/
theorem mergeLoop_induction_least {P : List Node → List QueueEntry → Prop}
    (hmerge : ∀ {tree queue a b rest rest'}, P tree queue → extractMin queue = some (a, rest) →
      extractMin rest = some (b, rest') → P (tree ++ [mergedNode a b]) (mergedEntry tree a b :: rest')) :
    ∀ (fuel : Nat) {tree : List Node} {queue : List QueueEntry}, P tree queue → queue.length = fuel + 1 →
      ∃ e, P (mergeLoop fuel tree queue) [e]
  | 0, _, _, h, hlen => by
    obtain ⟨e, rfl⟩ := List.length_eq_one_iff.mp hlen
    exact ⟨e, h⟩
  | fuel + 1, _, queue, h, hlen => by
    obtain ⟨a, rest, ha⟩ := extractMin_of_ne_nil (List.ne_nil_of_length_eq_add_one hlen)
    have hrest : rest.length = fuel + 1 := Nat.succ.inj ((extractMin_perm ha).length_eq.symm.trans hlen)
    obtain ⟨b, rest', hb⟩ := extractMin_of_ne_nil (List.ne_nil_of_length_eq_add_one hrest)
    rw [mergeLoop_succ ha hb]
    exact mergeLoop_induction_least hmerge fuel (hmerge h ha hb) ((extractMin_perm hb).length_eq.symm.trans hrest)

/-! ### A longer node list says the same of its first nodes -/

theorem isChild_append {tree : List Node} {m : Nat} (hm : m < tree.length) (more : List Node) (j : Nat) :
    IsChild (tree ++ more) m j ↔ IsChild tree m j := by
  rw [IsChild, IsChild, List.getElem?_append_left hm]

theorem waiting_append {tree : List Node} {k : Nat} (hk : k ≤ tree.length) (more : List Node) (j : Nat) :
    Waiting (tree ++ more) k j ↔ Waiting tree k j :=
  and_congr_right fun _ => forall₂_congr fun _ hm => not_congr (isChild_append (hm.trans_le hk) more j)

theorem freqAt_append {tree : List Node} {j : Nat} (hj : j < tree.length) (more : List Node) :
    freqAt (tree ++ more) j = freqAt tree j := by
  rw [freqAt, freqAt, List.getElem?_append_left hj]

theorem freqAt_of_some {tree : List Node} {j : Nat} {x : Node} (h : tree[j]? = some x) :
    freqAt tree j = nodeFreq x := by
  rw [freqAt, h]

theorem keyLess_append {tree : List Node} {i j : Nat} (hi : i < tree.length) (hj : j < tree.length)
    (more : List Node) : KeyLess (tree ++ more) i j ↔ KeyLess tree i j := by
  rw [KeyLess, KeyLess, freqAt_append hi, freqAt_append hj]

theorem MergesLeastTwo.append {tree : List Node} {k : Nat} (h : MergesLeastTwo tree k) (more : List Node) :
    MergesLeastTwo (tree ++ more) k := by
  obtain ⟨l, r, hk, hl, hr, hne, hleast, hnext⟩ := h
  obtain ⟨hlt, -⟩ := List.getElem?_eq_some_iff.mp hk
  have hinside : ∀ {j}, Waiting tree k j → j < tree.length := fun hw => hw.1.trans hlt
  have hwait := waiting_append hlt.le more
  refine ⟨l, r, ?_, (hwait _).mpr hl, (hwait _).mpr hr, hne, fun j hj hjl => ?_, fun j hj hjl hjr => ?_⟩
  · rw [List.getElem?_append_left hlt, hk, freqAt_append (hinside hl), freqAt_append (hinside hr)]
  · rw [hwait] at hj
    exact (keyLess_append (hinside hl) (hinside hj) more).mpr (hleast j hj hjl)
  · rw [hwait] at hj
    exact (keyLess_append (hinside hr) (hinside hj) more).mpr (hnext j hj hjl hjr)

/-- The children of a merge waited until it was made. -/
theorem MergesLeastTwo.child_waiting {tree : List Node} {k j : Nat} (h : MergesLeastTwo tree k)
    (hj : IsChild tree k j) : Waiting tree k j := by
  obtain ⟨l, r, hk, hl, hr, -⟩ := h
  obtain ⟨l', r', f', hk', hlr⟩ := hj
  obtain ⟨rfl, rfl, -⟩ : l = l' ∧ r = r' ∧ _ = f' := by simpa using hk.symm.trans hk'
  obtain rfl | rfl := hlr
  · exact hl
  · exact hr

/-! ### The merge loop's state -/

/-- What every merge of the two least entries keeps. -/
structure IsMerging (table : List Word) (tree : List Node) (queue : List QueueEntry) : Prop
    extends IsForest table tree queue where
  /-- An entry is keyed by its node's frequency (R165). -/
  keyed : ∀ e ∈ queue, freqAt tree e.node = e.freq
  /-- No node waits twice. -/
  distinct : (queue.map QueueEntry.node).Nodup
  /-- A node that waits is no child. -/
  orphan : ∀ e ∈ queue, ∀ m, ¬ IsChild tree m e.node
  /-- Every node with a child is a merge of the two least. -/
  merges : ∀ m j, IsChild tree m j → MergesLeastTwo tree m

/-- At most 2n - 1 nodes exist, so the 9-bit index of a waiting node is exact (R62). -/
theorem IsForest.toNat_index {table : List Word} {tree : List Node} {queue : List QueueEntry} {e : QueueEntry}
    (h : IsForest table tree queue) (he : e ∈ queue) : (BitVec.ofNat 9 e.node).toNat = e.node := by
  have hcount := h.count
  have hn := presentSymbols_length_le table
  have hlt := h.queued e he
  have hpos := List.length_pos_of_mem he
  rw [BitVec.toNat_ofNat]
  omega

/-- The leaves have no child. -/
theorem not_isChild_leaves (table : List Word) (m j : Nat) : ¬ IsChild (leaves table) m j := by
  rintro ⟨l, r, f, hm, -⟩
  obtain ⟨v, -, hv⟩ := mem_leaves.mp (List.mem_of_getElem? hm)
  cases hv

theorem initialQueue_map_node (tree : List Node) : (initialQueue tree).map QueueEntry.node = List.range tree.length := by
  rw [initialQueue, List.map_map, List.range_eq_range', ← List.zipIdx_map_snd]
  rfl

theorem isMerging_leaves (table : List Word) : IsMerging table (leaves table) (initialQueue (leaves table)) where
  toIsForest := isForest_leaves table
  keyed := by
    intro e he
    obtain ⟨⟨x, j⟩, hx, rfl⟩ := List.mem_map.mp he
    exact freqAt_of_some (List.mem_zipIdx_iff_getElem?.mp hx)
  distinct := initialQueue_map_node _ ▸ List.nodup_range
  orphan := fun _ _ m => not_isChild_leaves table m _
  merges := fun m j h => absurd h (not_isChild_leaves table m j)

section Merging
variable {table : List Word} {tree : List Node} {queue : List QueueEntry} (h : IsMerging table tree queue)
include h

/-- A node waits exactly if it stands in the queue. -/
theorem IsMerging.waiting_iff {j : Nat} : Waiting tree tree.length j ↔ ∃ e ∈ queue, e.node = j := by
  constructor
  · rintro ⟨hj, hw⟩
    refine (h.owned j hj).resolve_right ?_
    rintro ⟨m, hm⟩
    obtain ⟨l, r, f, hget, -⟩ := id hm
    exact hw m (List.getElem?_eq_some_iff.mp hget).1 hm
  · rintro ⟨e, he, rfl⟩
    exact ⟨h.queued e he, fun m _ => h.orphan e he m⟩

/-- Of two different entries, one that does not come after the other has the lesser key. -/
theorem IsMerging.keyLess {a e : QueueEntry} (ha : a ∈ queue) (he : e ∈ queue) (hne : e.node ≠ a.node)
    (hle : ¬ keyBefore e a = true) : KeyLess tree a.node e.node := by
  rw [keyBefore_iff] at hle
  rw [KeyLess, h.keyed a ha, h.keyed e he, ← BitVec.toNat_inj]
  omega

theorem IsMerging.child_lt {m j : Nat} (hm : IsChild tree m j) : j < tree.length := by
  obtain ⟨hlt, -⟩ := (h.merges m j hm).child_waiting hm
  obtain ⟨l, r, f, hget, -⟩ := hm
  exact hlt.trans (List.getElem?_eq_some_iff.mp hget).1

variable {a b : QueueEntry} {rest rest' : List QueueEntry}

/-- The children of a node list with one more merge. -/
theorem IsMerging.isChild_concat (ha : a ∈ queue) (hb : b ∈ queue) {m j : Nat} :
    IsChild (tree ++ [mergedNode a b]) m j ↔
      IsChild tree m j ∨ (m = tree.length ∧ (a.node = j ∨ b.node = j)) := by
  have hnew : (tree ++ [mergedNode a b])[tree.length]? = some (mergedNode a b) := List.getElem?_concat_length
  rw [← h.toNat_index ha, ← h.toNat_index hb]
  constructor
  · rintro ⟨l, r, f, hm, hlr⟩
    obtain ⟨hlt, -⟩ := List.getElem?_eq_some_iff.mp hm
    rw [List.length_append] at hlt
    obtain hlt | rfl := Nat.lt_succ_iff_lt_or_eq.mp hlt
    · rw [List.getElem?_append_left hlt] at hm
      exact .inl ⟨l, r, f, hm, hlr⟩
    · obtain ⟨rfl, rfl, -⟩ : _ = l ∧ _ = r ∧ _ = f := by simpa [mergedNode] using hnew.symm.trans hm
      exact .inr ⟨rfl, hlr⟩
  · rintro (hm | ⟨rfl, hj⟩)
    · exact hm.append _
    · exact ⟨_, _, _, hnew, hj⟩

/-- The node that merges the two least entries merges the two waiting nodes of least key (R165, R166, R167). -/
theorem IsMerging.mergesLeastTwo (ha : extractMin queue = some (a, rest)) (hb : extractMin rest = some (b, rest')) :
    MergesLeastTwo (tree ++ [mergedNode a b]) tree.length := by
  have hrest : ∀ {e}, e ∈ queue ↔ e = a ∨ e ∈ rest := by simp [(extractMin_perm ha).mem_iff]
  have hrest' : ∀ {e}, e ∈ rest ↔ e = b ∨ e ∈ rest' := by simp [(extractMin_perm hb).mem_iff]
  have hqa : a ∈ queue := hrest.mpr (.inl rfl)
  have hqb : b ∈ queue := hrest.mpr (.inr (hrest'.mpr (.inl rfl)))
  have hab : a.node ≠ b.node := by
    have hnodup := ((extractMin_perm ha).map QueueEntry.node).nodup_iff.mp h.distinct
    rw [List.map_cons, List.nodup_cons] at hnodup
    exact fun heq => hnodup.1 (heq ▸ List.mem_map_of_mem (hrest'.mpr (.inl rfl)))
  have hwait := fun j => (waiting_append (Nat.le_refl tree.length) [mergedNode a b] j).trans h.waiting_iff
  have hless : ∀ {i e}, i ∈ queue → e ∈ queue → e.node ≠ i.node → ¬ keyBefore e i = true →
      KeyLess (tree ++ [mergedNode a b]) i.node e.node := fun hi he hne hle =>
    (keyLess_append (h.queued _ hi) (h.queued _ he) _).mpr (h.keyLess hi he hne hle)
  refine ⟨BitVec.ofNat 9 a.node, BitVec.ofNat 9 b.node, ?_, ?_⟩
  · rw [h.toNat_index hqa, h.toNat_index hqb, freqAt_append (h.queued a hqa), freqAt_append (h.queued b hqb),
      h.keyed a hqa, h.keyed b hqb]
    exact List.getElem?_concat_length
  · rw [ne_eq, ← BitVec.toNat_inj, h.toNat_index hqa, h.toNat_index hqb]
    refine ⟨(hwait _).mpr ⟨a, hqa, rfl⟩, (hwait _).mpr ⟨b, hqb, rfl⟩, hab, fun j hj hja => ?_, fun j hj hja hjb => ?_⟩
    · obtain ⟨e, he, rfl⟩ := (hwait j).mp hj
      have hmem : e ∈ rest := (hrest.mp he).resolve_left fun heq => hja (heq ▸ rfl)
      exact hless hqa he hja (extractMin_least ha e hmem)
    · obtain ⟨e, he, rfl⟩ := (hwait j).mp hj
      have hmem : e ∈ rest := (hrest.mp he).resolve_left fun heq => hja (heq ▸ rfl)
      have hmem' : e ∈ rest' := (hrest'.mp hmem).resolve_left fun heq => hjb (heq ▸ rfl)
      exact hless hqb he hjb (extractMin_least hb e hmem')

theorem IsMerging.merge (ha : extractMin queue = some (a, rest)) (hb : extractMin rest = some (b, rest')) :
    IsMerging table (tree ++ [mergedNode a b]) (mergedEntry tree a b :: rest') := by
  have hperm : queue.Perm (a :: b :: rest') := (extractMin_perm ha).trans ((extractMin_perm hb).cons a)
  have hqueue : ∀ {e}, e ∈ a :: b :: rest' → e ∈ queue := hperm.mem_iff.mpr
  have hqa : a ∈ queue := hqueue (by simp)
  have hqb : b ∈ queue := hqueue (by simp)
  have hchild := fun m j => h.isChild_concat hqa hqb (m := m) (j := j)
  have hnodup := (hperm.map QueueEntry.node).nodup_iff.mp h.distinct
  simp only [List.map_cons, List.nodup_cons, List.mem_cons, not_or] at hnodup
  obtain ⟨⟨-, ha'⟩, hb', hdistinct⟩ := hnodup
  have hrest : ∀ {e}, e ∈ rest' → e ∈ queue := fun he => hqueue (by simp [he])
  refine ⟨h.toIsForest.merge hperm, ?_, ?_, ?_, ?_⟩
  · intro e he
    obtain rfl | he := List.mem_cons.mp he
    · exact freqAt_of_some List.getElem?_concat_length
    · rw [freqAt_append (h.queued e (hrest he)), h.keyed e (hrest he)]
  · refine List.nodup_cons.mpr ⟨fun hmem => ?_, hdistinct⟩
    obtain ⟨e, he, hnode⟩ := List.mem_map.mp hmem
    exact (h.queued e (hrest he)).ne hnode
  · intro e he m hm
    obtain rfl | he := List.mem_cons.mp he
    · obtain hm | ⟨-, hm | hm⟩ := (hchild m _).mp hm
      · exact (h.child_lt hm).false
      · exact (h.queued a hqa).ne hm
      · exact (h.queued b hqb).ne hm
    · obtain hm | ⟨-, hm | hm⟩ := (hchild m _).mp hm
      · exact h.orphan e (hrest he) m hm
      · exact ha' (hm ▸ List.mem_map_of_mem he)
      · exact hb' (hm ▸ List.mem_map_of_mem he)
  · intro m j hm
    obtain hm | ⟨rfl, -⟩ := (hchild m j).mp hm
    · exact (h.merges m j hm).append _
    · exact h.mergesLeastTwo ha hb

/-- Two nodes with a common child are one: the child waited until the later of them was made (R62). -/
theorem IsMerging.parent_unique {m m' j : Nat} (hm : IsChild tree m j) (hm' : IsChild tree m' j) : m = m' := by
  obtain ⟨-, hw⟩ := (h.merges m j hm).child_waiting hm
  obtain ⟨-, hw'⟩ := (h.merges m' j hm').child_waiting hm'
  exact Nat.le_antisymm (not_lt.mp fun hlt => hw m' hlt hm') (not_lt.mp fun hlt => hw' m hlt hm)

/-- What an internal node is: the merge of two different earlier nodes. -/
theorem IsMerging.internal_cases {k : Nat} {l r : BitVec 9} {f : Word} (hk : tree[k]? = some (.internal l r f)) :
    l.toNat < k ∧ r.toNat < k ∧ l ≠ r ∧ f = freqAt tree l.toNat + freqAt tree r.toNat := by
  obtain ⟨l', r', hk', hl, hr, hne, -⟩ := h.merges k _ ⟨l, r, f, hk, .inl rfl⟩
  obtain ⟨rfl, rfl, rfl⟩ : l' = l ∧ r' = r ∧ _ = f := by simpa using hk'.symm.trans hk
  exact ⟨hl.1, hr.1, hne, rfl⟩

end Merging

theorem initialQueue_leaves_length {table : List Word} (hn : 0 < (presentSymbols table).length) :
    (initialQueue (leaves table)).length = (leaves table).length - 1 + 1 := by
  rw [initialQueue_length, leaves_length]
  omega

theorem isMerging_build {table : List Word} (hn : 0 < (presentSymbols table).length) :
    ∃ e, IsMerging table (build table) [e] :=
  mergeLoop_induction_least (fun h ha hb => h.merge ha hb) _ (isMerging_leaves table) (initialQueue_leaves_length hn)

/-! ### TREE_BUILD (R165, R169) -/

theorem presentSymbols_ascend (table : List Word) : ((presentSymbols table).map BitVec.toNat).Pairwise (· < ·) := by
  have hall : ((List.range 256).map (BitVec.ofNat 8)).map BitVec.toNat = List.range 256 := by
    rw [List.map_map]
    exact (List.map_congr_left fun k hk => Nat.mod_eq_of_lt (List.mem_range.mp hk)).trans (List.map_id _)
  have hsub := (List.filter_sublist (p := fun s => !decide (freqOf table s = 0#32))
    (l := (List.range 256).map (BitVec.ofNat 8))).map BitVec.toNat
  rw [hall] at hsub
  exact List.pairwise_lt_range.sublist hsub

theorem presentSymbols_nodup (table : List Word) : (presentSymbols table).Nodup :=
  List.Nodup.of_map _ ((presentSymbols_ascend table).imp Nat.ne_of_lt)

theorem IsForest.getElem?_leaf {table : List Word} {tree : List Node} {queue : List QueueEntry}
    (h : IsForest table tree queue) {k : Nat} {v : Byte} (hk : (presentSymbols table)[k]? = some v) :
    tree[k]? = some (.leaf v (freqOf table v)) := by
  have hleaf : (leaves table)[k]? = some (.leaf v (freqOf table v)) := by simp [leaves, hk]
  obtain ⟨hlt, -⟩ := List.getElem?_eq_some_iff.mp hleaf
  rw [List.prefix_iff_getElem?.mp h.leavesFirst k hlt, ← List.getElem?_eq_getElem hlt, hleaf]

theorem IsMerging.isHuffmanTree {table : List Word} {tree : List Node} {e : QueueEntry}
    (h : IsMerging table tree [e]) : IsHuffmanTree table (presentSymbols table) tree where
  symsPresent := fun _ => mem_presentSymbols
  symsAscend := presentSymbols_ascend table
  size := h.length_finished
  leaf := fun _ _ hk => h.getElem?_leaf hk
  merge := fun k hk hlt => by
    obtain ⟨l, r, f, hget, -⟩ := h.internal k hk hlt
    exact h.merges k _ ⟨l, r, f, hget, .inl rfl⟩

/-- Settles O34: the merge loop, started on the leaves, takes out the two least entries each time. -/
theorem treeBuildMergesTheLeastTwo : Obligations.TreeBuildMergesTheLeastTwo := by
  intro s hft ⟨v, hv⟩
  obtain ⟨e, h⟩ := isMerging_build (List.length_pos_of_mem (mem_presentSymbols.mpr hv))
  exact ⟨_, exec_treeBuild_valid hft, ⟨rfl, rfl, rfl, rfl⟩, ⟨_, h.isHuffmanTree⟩, rfl, rfl, hft, rfl,
    (untouched_putTree _ s).trans (untouched_succeed _ _), rfl, rfl, rfl⟩

/-! ### Exact sums (R170) -/

/-- The frequencies of the waiting nodes add up to `total`, and those of an internal node's children to its own. -/
structure IsExact (total : Nat) (tree : List Node) (queue : List QueueEntry) : Prop where
  queueTotal : (queue.map fun e => e.freq.toNat).sum = total
  childSum : ∀ (k : Nat) l r f, tree[k]? = some (Node.internal l r f) →
    f.toNat = (freqAt tree l.toNat).toNat + (freqAt tree r.toNat).toNat

/-- A merge keeps the total, so with a total below 2^32 no sum wraps. -/
theorem IsExact.merge {table : List Word} {total : Nat} {tree : List Node} {queue rest : List QueueEntry}
    {a b : QueueEntry} (hx : IsExact total tree queue) (h : IsMerging table tree queue) (htotal : total < 2 ^ 32)
    (hq : queue.Perm (a :: b :: rest)) :
    IsExact total (tree ++ [mergedNode a b]) (mergedEntry tree a b :: rest) := by
  have hsum := (hq.map fun e => e.freq.toNat).sum_eq.symm.trans hx.queueTotal
  simp only [List.map_cons, List.sum_cons] at hsum
  have hnew : (a.freq + b.freq).toNat = a.freq.toNat + b.freq.toNat := by
    rw [BitVec.toNat_add]
    omega
  have ha : a ∈ queue := hq.mem_iff.mpr (by simp)
  have hb : b ∈ queue := hq.mem_iff.mpr (by simp)
  refine ⟨?_, fun k l r f hk => ?_⟩
  · rw [List.map_cons, List.sum_cons, mergedEntry, hnew]
    omega
  · obtain ⟨hlt, -⟩ := List.getElem?_eq_some_iff.mp hk
    rw [List.length_append] at hlt
    obtain hlt | rfl := Nat.lt_succ_iff_lt_or_eq.mp hlt
    · rw [List.getElem?_append_left hlt] at hk
      obtain ⟨hl, hr, -⟩ := h.internal_cases hk
      rw [freqAt_append (hl.trans hlt), freqAt_append (hr.trans hlt)]
      exact hx.childSum k l r f hk
    · obtain ⟨rfl, rfl, rfl⟩ : _ = l ∧ _ = r ∧ _ = f := by
        simpa [mergedNode] using List.getElem?_concat_length.symm.trans hk
      rw [h.toNat_index ha, h.toNat_index hb, freqAt_append (h.queued a ha), freqAt_append (h.queued b hb),
        h.keyed a ha, h.keyed b hb, hnew]

theorem initialQueue_map_freq (tree : List Node) :
    (initialQueue tree).map QueueEntry.freq = tree.map nodeFreq := by
  conv_rhs => rw [← List.zipIdx_map_fst 0 tree]
  rw [initialQueue, List.map_map, List.map_map]
  rfl

/-- The symbols that do not occur add nothing to a total. -/
theorem sum_presentSymbols (table : List Word) :
    ((presentSymbols table).map fun v => (freqOf table v).toNat).sum =
      (((List.range 256).map (BitVec.ofNat 8)).map fun v => (freqOf table v).toNat).sum := by
  rw [presentSymbols]
  induction (List.range 256).map (BitVec.ofNat 8) with
  | nil => rfl
  | cons v vs ih => by_cases hv : freqOf table v = 0#32 <;> simp [hv, ih]

/-- A table of 256 entries is the list of its entries. -/
theorem map_freqOf_range {table : List Word} (hlen : table.length = 256) :
    ((List.range 256).map (BitVec.ofNat 8)).map (freqOf table) = table := by
  refine List.ext_getElem (by simp [hlen]) fun k hk hk' => ?_
  have hmod : k % 256 = k := Nat.mod_eq_of_lt (by omega)
  simp [freqOf, hmod, List.getElem?_eq_getElem hk']

theorem isExact_leaves {table : List Word} (hlen : table.length = 256) :
    IsExact (table.map BitVec.toNat).sum (leaves table) (initialQueue (leaves table)) where
  queueTotal := by
    have hqueue : (initialQueue (leaves table)).map (fun e => e.freq.toNat) =
        (presentSymbols table).map fun v => (freqOf table v).toNat := by
      rw [show (fun e : QueueEntry => e.freq.toNat) = BitVec.toNat ∘ QueueEntry.freq from rfl, ← List.map_map,
        initialQueue_map_freq, leaves, List.map_map, List.map_map]
      rfl
    rw [hqueue, sum_presentSymbols]
    conv_rhs => rw [← map_freqOf_range hlen, List.map_map]
    rfl
  childSum := fun k l r f hk => absurd ⟨l, r, f, hk, .inl rfl⟩ (not_isChild_leaves table k l.toNat)

theorem isExact_build {table : List Word} (hn : 0 < (presentSymbols table).length) (hlen : table.length = 256)
    (htotal : (table.map BitVec.toNat).sum < 2 ^ 32) :
    ∃ e, IsMerging table (build table) [e] ∧ IsExact (table.map BitVec.toNat).sum (build table) [e] := by
  refine mergeLoop_induction_least
    (P := fun tree queue => IsMerging table tree queue ∧ IsExact (table.map BitVec.toNat).sum tree queue) ?_ _
    ⟨isMerging_leaves table, isExact_leaves hlen⟩ (initialQueue_leaves_length hn)
  rintro tree queue a b rest rest' ⟨h, hx⟩ ha hb
  exact ⟨h.merge ha hb, hx.merge h htotal ((extractMin_perm ha).trans ((extractMin_perm hb).cons a))⟩

/-- The one entry left is the root, and it has the total. -/
theorem IsExact.root_freq {table : List Word} {total : Nat} {tree : List Node} {e : QueueEntry}
    (hx : IsExact total tree [e]) (h : IsMerging table tree [e]) :
    (freqAt tree (rootIndex tree)).toNat = total := by
  rw [← h.root_queued, h.keyed e List.mem_cons_self]
  exact hx.queueTotal

/-- Every node but the root has a parent, and no other one. -/
theorem IsMerging.owned_once {table : List Word} {tree : List Node} {e : QueueEntry} (h : IsMerging table tree [e])
    {j : Nat} (hj : j + 1 < tree.length) : ∃ k, IsChild tree k j ∧ ∀ m, IsChild tree m j → m = k := by
  obtain ⟨e', he', hnode⟩ | ⟨k, hk⟩ := h.owned j (by omega)
  · rw [List.mem_singleton.mp he', h.root_queued, rootIndex] at hnode
    omega
  · exact ⟨k, hk, fun m hm => h.parent_unique hm hk⟩

/-- Settles O54: the invariant makes NODE the tree of an FT whose total is at most 2^24. -/
theorem treeCountsAreExactAndOwned : Obligations.TreeCountsAreExactAndOwned := by
  intro s hc htree
  obtain ⟨hft, hnodes⟩ := hc.treeOfFreq htree
  obtain ⟨e, h, hx⟩ := isExact_build (hc.presentSymbols_pos hft) hc.ftEntries
    ((hc.ftTotal hft).trans_lt (by decide))
  rw [← hnodes] at h hx
  refine ⟨hx.root_freq h, fun k l r f hk => ?_, fun j hj => h.owned_once hj⟩
  obtain ⟨hl, hr, -⟩ := h.internal_cases hk
  exact ⟨hx.childSum k l r f hk, hl, hr⟩

end Sys2Proof.Machine
end

section
/-! PROOFS. The Huffman family, third part: the codes of the finished tree (R175 to R178). A code is the only path to its
leaf, so no code prefixes another and the weights of the codes fill the tree. -/

namespace Sys2Proof.Machine

/-! ### The leaves and the root of the finished tree -/

section Finished
variable {table : List Word} {tree : List Node} {e : QueueEntry} (h : IsForest table tree [e])
include h

/-- Leaf `k` is that of present symbol `k`, with the symbol's count (R63). -/
theorem IsForest.leaf_cases {k : Nat} {v : Byte} {f : Word} (hk : tree[k]? = some (.leaf v f)) :
    (presentSymbols table)[k]? = some v ∧ f = freqOf table v := by
  obtain ⟨w, hsym⟩ : ∃ w, (presentSymbols table)[k]? = some w := ⟨_, List.getElem?_eq_getElem (h.leaf_index hk)⟩
  obtain ⟨rfl, rfl⟩ : v = w ∧ f = freqOf table w := by simpa using hk.symm.trans (h.getElem?_leaf hsym)
  exact ⟨hsym, rfl⟩

theorem IsForest.leaf_freq {v : Byte} {f : Word} (hmem : Node.leaf v f ∈ tree) : f = freqOf table v := by
  obtain ⟨k, hk⟩ := List.mem_iff_getElem?.mp hmem
  exact (h.leaf_cases hk).2

/-- The root is a leaf only in a tree of one node (R176). -/
theorem IsForest.root_cases :
    (tree.length = 1 ∧ ∃ v f, tree[rootIndex tree]? = some (.leaf v f)) ∨
    (tree.length ≠ 1 ∧ ∃ l r f, tree[rootIndex tree]? = some (.internal l r f)) := by
  have hcount := h.length_finished
  obtain ⟨x, hx⟩ := h.root_exists
  cases x with
  | leaf v f =>
    have hlt := h.leaf_index hx
    unfold rootIndex at hlt
    exact .inl ⟨by omega, v, f, hx⟩
  | internal l r f =>
    obtain ⟨hge, hl, -⟩ := h.internal_children hx
    unfold rootIndex at hge hl
    exact .inr ⟨by omega, l, r, f, hx⟩

theorem IsForest.code_mem {v : Byte} (hv : v ∈ presentSymbols table) :
    (v, codeOf (gen tree) v) ∈ treeCodes tree := by
  obtain ⟨q, hq⟩ := h.code_exists hv
  exact codeOf_gen_mem hq

/-- The code of a present symbol is `"0"` in a tree of one leaf (R176). -/
theorem IsForest.code_single {v : Byte} (hv : v ∈ presentSymbols table) (hlen : tree.length = 1) :
    codeOf (gen tree) v = [false] := by
  obtain ⟨-, w, f, hroot⟩ | ⟨hne, -⟩ := h.root_cases
  · have hmem := h.code_mem hv
    rw [treeCodes_of_leaf hroot, List.mem_singleton] at hmem
    exact (Prod.mk.inj hmem).2
  · exact absurd hlen hne

/-- The code of a present symbol is a path from the root to its leaf in a larger tree (R175). -/
theorem IsForest.code_path {v : Byte} (hv : v ∈ presentSymbols table) (hlen : tree.length ≠ 1) :
    follow tree (rootIndex tree) (codeOf (gen tree) v) = some (.leaf v (freqOf table v)) := by
  obtain ⟨heq, -⟩ | ⟨-, l, r, f, hroot⟩ := h.root_cases
  · exact absurd heq hlen
  · obtain ⟨f', -, hpath⟩ := (mem_treeCodes_of_internal hroot).mp (h.code_mem hv)
    rwa [h.leaf_freq (follow_mem hpath)] at hpath

end Finished

/-! ### CODE_GEN (R177) -/

/-- Settles O35: the invariant makes NODE the tree of FT. -/
theorem codeGenRecordsThePathToEachLeaf : Obligations.CodeGenRecordsThePathToEachLeaf := by
  intro s hc htree
  obtain ⟨hft, hnodes⟩ := hc.treeOfFreq htree
  have hpos := hc.presentSymbols_pos hft
  obtain ⟨e, h⟩ := isForest_build hpos
  have hcodes := codeOf_build_ne_nil hpos
  rw [← hnodes] at h hcodes
  refine ⟨_, exec_codeGen_valid htree, ⟨rfl, rfl, rfl, rfl⟩, fun v hv => ?_, fun v hv => ?_, rfl, htree, rfl, rfl,
    (untouched_putCodes _ s).trans (untouched_succeed _ _), rfl, rfl, rfl⟩
  · exact not_not.mp fun hne => mem_presentSymbols.mp ((hcodes v).mp hne) hv
  · have hv' := mem_presentSymbols.mpr hv
    exact ⟨h.code_single hv', fun hlen => ⟨(hcodes v).mpr hv', h.code_path hv' hlen⟩⟩

/-! ### No code prefixes another (R178) -/

/-- No path goes on behind a leaf. -/
theorem follow_leaf_append {tree : List Node} {u : Byte} {f : Word} {x : Node} {rest : BitString} :
    ∀ {path : BitString} {k : Nat}, follow tree k path = some (.leaf u f) →
      follow tree k (path ++ rest) = some x → x = .leaf u f
  | [], k, hu, hx => by
    cases rest with
    | nil => exact Option.some.inj (hx.symm.trans hu)
    | cons b rest =>
      obtain ⟨l, r, f', hk⟩ := internal_of_follow_cons hx
      exact absurd (hk.symm.trans hu) nofun
  | b :: path, k, hu, hx => by
    obtain ⟨l, r, f', hk⟩ := internal_of_follow_cons hu
    rw [follow_cons hk] at hu
    rw [List.cons_append, follow_cons hk] at hx
    exact follow_leaf_append hu hx

theorem IsForest.prefix_free {table : List Word} {tree : List Node} {e : QueueEntry} (h : IsForest table tree [e])
    {u v : Byte} {p q : BitString} (hu : (u, p) ∈ treeCodes tree) (hv : (v, q) ∈ treeCodes tree) (hpq : p <+: q) :
    u = v := by
  obtain ⟨-, w, f, hroot⟩ | ⟨-, l, r, f, hroot⟩ := h.root_cases
  · rw [treeCodes_of_leaf hroot, List.mem_singleton] at hu hv
    exact (Prod.mk.inj (hu.trans hv.symm)).1
  · obtain ⟨f₁, -, hup⟩ := (mem_treeCodes_of_internal hroot).mp hu
    obtain ⟨f₂, -, hvq⟩ := (mem_treeCodes_of_internal hroot).mp hv
    obtain ⟨rest, rfl⟩ := hpq
    exact (Node.leaf.inj (follow_leaf_append hup hvq)).1.symm

/-- What the invariant says of a valid code table: it holds the codes of the finished tree of FT. -/
theorem Coherent.finished_of_ctValid {s : State} (hc : Coherent s) (hct : s.ctValid = true) :
    s.ct = gen s.nodes ∧ (∃ e, IsMerging s.ft s.nodes [e]) ∧ ∀ v, codeOf s.ct v ≠ [] ↔ v ∈ presentSymbols s.ft := by
  obtain ⟨htree, hcodes⟩ := hc.codesOfTree hct
  obtain ⟨hft, hnodes⟩ := hc.treeOfFreq htree
  have hpos := hc.presentSymbols_pos hft
  rw [hcodes, hnodes]
  exact ⟨rfl, isMerging_build hpos, codeOf_build_ne_nil hpos⟩

/-- Settles O55: a path to a leaf does not go on. -/
theorem codesArePrefixFree : Obligations.CodesArePrefixFree := by
  intro s u v hc hct hu hv hne hpre
  obtain ⟨hcodes, ⟨e, h⟩, hpresent⟩ := hc.finished_of_ctValid hct
  rw [hpresent] at hu hv
  rw [hcodes] at hpre
  exact hne (h.prefix_free (h.code_mem hu) (h.code_mem hv) hpre)

/-! ### One path to each node (R62) -/

/-- The last branch bit of a path leads from an internal node to a child. -/
theorem follow_snoc_cases {tree : List Node} {b : Bool} {x : Node} :
    ∀ {path : BitString} {k : Nat}, follow tree k (path ++ [b]) = some x →
      ∃ l r f, follow tree k path = some (.internal l r f) ∧ tree[if b then r.toNat else l.toNat]? = some x
  | [], k, hx => by
    obtain ⟨l, r, f, hk⟩ := internal_of_follow_cons hx
    exact ⟨l, r, f, hk, (follow_cons hk b []).symm.trans hx⟩
  | c :: path, k, hx => by
    obtain ⟨l, r, f, hk⟩ := internal_of_follow_cons hx
    rw [List.cons_append, follow_cons hk] at hx
    obtain ⟨l', r', f', hpath, hchild⟩ := follow_snoc_cases hx
    exact ⟨l', r', f', (follow_cons hk c path).trans hpath, hchild⟩

theorem isChild_of_branch {tree : List Node} {m : Nat} {l r : BitVec 9} {f : Word}
    (hm : tree[m]? = some (.internal l r f)) (b : Bool) : IsChild tree m (if b then r.toNat else l.toNat) := by
  cases b with
  | false => exact ⟨l, r, f, hm, .inl rfl⟩
  | true => exact ⟨l, r, f, hm, .inr rfl⟩

section Paths
variable {table : List Word} {tree : List Node} {e : QueueEntry} (h : IsMerging table tree [e])
include h

/-- No two nodes are alike: leaves differ in the symbol, internal nodes in their children. -/
theorem IsMerging.index_unique {i j : Nat} {x : Node} (hi : tree[i]? = some x) (hj : tree[j]? = some x) : i = j := by
  cases x with
  | leaf v f =>
    obtain ⟨hvi, -⟩ := h.leaf_cases hi
    obtain ⟨hvj, -⟩ := h.leaf_cases hj
    exact (List.getElem?_inj (h.leaf_index hi) (presentSymbols_nodup table)).mp (hvi.trans hvj.symm)
  | internal l r f => exact h.parent_unique ⟨l, r, f, hi, .inl rfl⟩ ⟨l, r, f, hj, .inl rfl⟩

theorem IsMerging.root_not_child (m : Nat) : ¬ IsChild tree m (rootIndex tree) :=
  h.root_queued ▸ h.orphan e List.mem_cons_self m

/-- A step of a path comes from the one parent by the one branch. -/
theorem IsMerging.branch_unique {l r l' r' : BitVec 9} {f f' : Word} {b b' : Bool} {x : Node}
    (hm : Node.internal l r f ∈ tree) (hm' : Node.internal l' r' f' ∈ tree)
    (hx : tree[if b then r.toNat else l.toNat]? = some x)
    (hx' : tree[if b' then r'.toNat else l'.toNat]? = some x) :
    Node.internal l r f = .internal l' r' f' ∧ b = b' := by
  obtain ⟨m, hm⟩ := List.mem_iff_getElem?.mp hm
  obtain ⟨m', hm'⟩ := List.mem_iff_getElem?.mp hm'
  have hindex := h.index_unique hx hx'
  obtain rfl := h.parent_unique (isChild_of_branch hm b) (hindex ▸ isChild_of_branch hm' b')
  have hsame := Option.some.inj (hm.symm.trans hm')
  refine ⟨hsame, ?_⟩
  obtain ⟨rfl, rfl, -⟩ := Node.internal.inj hsame
  obtain ⟨-, -, hne, -⟩ := h.internal_cases hm
  rw [ne_eq, ← BitVec.toNat_inj] at hne
  cases b with
  | false =>
    cases b' with
    | false => rfl
    | true => exact absurd hindex hne
  | true =>
    cases b' with
    | false => exact absurd hindex.symm hne
    | true => rfl

theorem IsMerging.path_unique {x : Node} {p q : BitString} (hp : follow tree (rootIndex tree) p = some x)
    (hq : follow tree (rootIndex tree) q = some x) : p = q := by
  have hroot : ∀ {y : Node} {path b}, follow tree (rootIndex tree) (path ++ [b]) = some y →
      tree[rootIndex tree]? ≠ some y := by
    intro y path b hpath hy
    obtain ⟨l, r, f, hparent, hchild⟩ := follow_snoc_cases hpath
    obtain ⟨m, hm⟩ := List.mem_iff_getElem?.mp (follow_mem hparent)
    exact h.root_not_child m (h.index_unique hy hchild ▸ isChild_of_branch hm b)
  induction p using List.reverseRecOn generalizing q x with
  | nil =>
    obtain rfl | ⟨q, c, rfl⟩ := q.eq_nil_or_concat'
    · rfl
    · exact absurd hp (hroot hq)
  | append_singleton p b ih =>
    obtain rfl | ⟨q, c, rfl⟩ := q.eq_nil_or_concat'
    · exact absurd hq (hroot hp)
    · obtain ⟨l, r, f, hparent, hchild⟩ := follow_snoc_cases hp
      obtain ⟨l', r', f', hparent', hchild'⟩ := follow_snoc_cases hq
      obtain ⟨hsame, rfl⟩ := h.branch_unique (follow_mem hparent) (follow_mem hparent') hchild hchild'
      rw [ih hparent (hsame ▸ hparent')]

end Paths

/-! ### Kraft's equality (R178) -/

/-- What a code of `len` bits takes of the tree, in units of 2^(-255). -/
def kraftWeight (len : Nat) : Nat := 2 ^ (255 - len)

/-- Two codes that are one bit longer take what the code before takes. -/
theorem kraftWeight_succ {len : Nat} (h : len < 255) :
    kraftWeight (len + 1) + kraftWeight (len + 1) = kraftWeight len := by
  unfold kraftWeight
  rw [show 255 - len = 255 - (len + 1) + 1 by omega, Nat.pow_succ, Nat.mul_two]

/-- The leaves below a node take what the path to it takes. -/
theorem IsForest.sum_walk {table : List Word} {tree : List Node} {e : QueueEntry} (h : IsForest table tree [e]) :
    ∀ {fuel k : Nat} {p : BitString}, k < fuel → k < tree.length →
      p.length + (k + 1 - (presentSymbols table).length) ≤ 255 →
      ((walk tree fuel k p).map fun c => kraftWeight c.2.length).sum = kraftWeight p.length
  | fuel + 1, k, p, hfuel, hk, hlen => by
    unfold walk
    split
    · rename_i hnone
      exact absurd (List.getElem?_eq_none_iff.mp hnone) (by omega)
    · simp
    · rename_i l r f hnode
      obtain ⟨hge, hl, hr⟩ := h.internal_children hnode
      have hchild : ∀ {j : Nat} (b : Bool), j < k →
          ((walk tree fuel j (p ++ [b])).map fun c => kraftWeight c.2.length).sum = kraftWeight (p.length + 1) := by
        intro j b hj
        rw [h.sum_walk (by omega) (hj.trans hk) (by rw [List.length_append, List.length_singleton]; omega),
          List.length_append, List.length_singleton]
      rw [List.map_append, List.sum_append, hchild false hl, hchild true hr, kraftWeight_succ (by omega)]

/-- The walk lists no leaf with the same path twice. -/
theorem walk_nodup {tree : List Node} : ∀ {fuel k : Nat} {p : BitString}, (walk tree fuel k p).Nodup
  | 0, _, _ => List.nodup_nil
  | fuel + 1, k, p => by
    unfold walk
    split
    · exact List.nodup_nil
    · exact List.nodup_singleton _
    · refine List.nodup_append'.mpr ⟨walk_nodup, walk_nodup, ?_⟩
      rintro ⟨v, q⟩ hleft hright
      obtain ⟨path, -, rfl, -⟩ := mem_walk.mp hleft
      obtain ⟨path', -, heq, -⟩ := mem_walk.mp hright
      simp at heq

theorem treeCodes_of_internal {tree : List Node} {l r : BitVec 9} {f : Word}
    (h : tree[rootIndex tree]? = some (.internal l r f)) : treeCodes tree = walk tree tree.length (rootIndex tree) [] := by
  simp [treeCodes, h]

/-- The codes of a tree with an internal root are the present symbols', one each. -/
theorem IsMerging.treeCodes_perm {table : List Word} {tree : List Node} {e : QueueEntry}
    (h : IsMerging table tree [e]) {l r : BitVec 9} {f : Word}
    (hroot : tree[rootIndex tree]? = some (.internal l r f)) :
    (treeCodes tree).Perm ((presentSymbols table).map fun v => (v, codeOf (gen tree) v)) := by
  refine (List.perm_ext_iff_of_nodup (treeCodes_of_internal hroot ▸ walk_nodup)
    ((presentSymbols_nodup table).map fun _ _ heq => (Prod.mk.inj heq).1)).mpr ?_
  rintro ⟨v, q⟩
  constructor
  · intro hq
    obtain ⟨f₁, -, hpath⟩ := (mem_treeCodes_of_internal hroot).mp hq
    obtain ⟨f₂, -, hpath'⟩ := (mem_treeCodes_of_internal hroot).mp (codeOf_gen_mem hq)
    rw [h.leaf_freq (follow_mem hpath)] at hpath
    rw [h.leaf_freq (follow_mem hpath')] at hpath'
    exact List.mem_map.mpr ⟨v, (h.code_bounds hq).1, by rw [h.path_unique hpath' hpath]⟩
  · intro hq
    obtain ⟨w, hw, heq⟩ := List.mem_map.mp hq
    exact heq ▸ h.code_mem hw

/-- Settles O56: the walk from the root takes the whole tree. -/
theorem codeLengthsFillTheTree : Obligations.CodeLengthsFillTheTree := by
  intro s hc hct hn
  obtain ⟨hcodes, ⟨e, h⟩, -⟩ := hc.finished_of_ctValid hct
  have hcount := h.length_finished
  have hle := presentSymbols_length_le s.ft
  obtain ⟨hone, -⟩ | ⟨-, l, r, f, hroot⟩ := h.root_cases
  · omega
  · have hlt : rootIndex s.nodes < s.nodes.length := by unfold rootIndex; omega
    have hlen : ([] : BitString).length + (rootIndex s.nodes + 1 - (presentSymbols s.ft).length) ≤ 255 := by
      unfold rootIndex
      rw [List.length_nil]
      omega
    calc ((presentSymbols s.ft).map fun v => kraftWeight (codeOf s.ct v).length).sum
        = (((presentSymbols s.ft).map fun v => (v, codeOf (gen s.nodes) v)).map
            fun c => kraftWeight c.2.length).sum := by rw [hcodes, List.map_map]; rfl
      _ = ((treeCodes s.nodes).map fun c => kraftWeight c.2.length).sum :=
          ((h.treeCodes_perm hroot).map _).sum_eq.symm
      _ = kraftWeight 0 := by rw [treeCodes_of_internal hroot]; exact h.sum_walk hlt hlt hlen

end Sys2Proof.Machine
end

section
/-! PROOFS. The run-length and media family (spec/41_rle_media.md), first part: the token list of a sequence (R230, R232).
-/

namespace Sys2Proof.Machine

section Tokens

variable {α : Type}

/-! ### The tokenizer makes the list R232 describes -/

/-- A run goes in front of a token list when it is closed by another value, by the end, or by the cap. -/
theorem EncodesRuns.cons {seq : List α} {toks : List (Token α)} {v : α} {c : Nat} (h : EncodesRuns seq toks)
    (hc : 1 ≤ c ∧ c ≤ 255) (hclose : ∀ x ∈ seq.head?, v = x → c = 255) :
    EncodesRuns (List.replicate c v ++ seq) ((v, c) :: toks) := by
  obtain ⟨rfl, hcounts, hmax⟩ := h
  refine ⟨rfl, List.forall_mem_cons.mpr ⟨hc, hcounts⟩, ?_⟩
  rw [head?_expand hcounts] at hclose
  cases toks with
  | nil => trivial
  | cons u toks => exact ⟨hclose u.1 rfl, hmax⟩

variable [DecidableEq α]

theorem encodesRuns_tokenizeFrom {v : α} {c : Nat} {xs : List α} (hc : 1 ≤ c ∧ c ≤ 255) :
    EncodesRuns (List.replicate c v ++ xs) (tokenizeFrom v c xs) := by
  induction xs generalizing v c with
  | nil => exact EncodesRuns.cons ⟨rfl, nofun, trivial⟩ hc nofun
  | cons x xs ih =>
    unfold tokenizeFrom
    split
    next hext =>
      obtain ⟨rfl, hcap⟩ := hext
      rw [← List.singleton_append, ← List.append_assoc, ← List.replicate_succ']
      exact ih ⟨by omega, hcap⟩
    next hstop =>
      refine EncodesRuns.cons (ih ⟨le_rfl, by omega⟩) hc fun y hy hvy => ?_
      obtain rfl : x = y := by simpa using hy
      have hcap : ¬ c < 255 := fun hlt => hstop ⟨hvy.symm, hlt⟩
      omega

theorem encodesRuns_tokenize (seq : List α) : EncodesRuns seq (tokenize seq) := by
  cases seq with
  | nil => exact ⟨rfl, nofun, trivial⟩
  | cons x xs => exact encodesRuns_tokenizeFrom (c := 1) ⟨le_rfl, by omega⟩

/-! ### The number of tokens -/

/-- A maximal run of `n` elements makes `n / 255` tokens, rounded up. -/
theorem length_tokenize_run {v : α} {tail : List α} (hclose : v ∉ tail.head?) (n : Nat) :
    (tokenize (List.replicate n v ++ tail)).length = (n + 254) / 255 + (tokenize tail).length := by
  induction n using Nat.strong_induction_on with
  | _ n ih =>
    obtain rfl | hpos := n.eq_zero_or_pos
    · simp
    obtain hle | hgt := le_or_gt n 255
    · rw [tokenize_run ⟨hpos, hle⟩ (by rintro _ hx rfl; exact absurd hx hclose), List.length_cons]
      omega
    · obtain ⟨m, rfl⟩ : ∃ m, n = 255 + m := ⟨n - 255, by omega⟩
      rw [List.replicate_add, List.append_assoc, tokenize_run ⟨by omega, le_rfl⟩ fun _ _ _ => rfl, List.length_cons,
        ih m (by omega)]
      omega

theorem splitBy_run {v : α} {tail : List α} (hclose : v ∉ tail.head?) {n : Nat} (hn : n ≠ 0) :
    (List.replicate n v ++ tail).splitBy (fun a b => decide (a = b)) =
      List.replicate n v :: tail.splitBy (fun a b => decide (a = b)) := by
  have hrun : (List.replicate n v).IsChain (fun a b => decide (a = b) = true) :=
    List.isChain_replicate_of_rel n (by simp)
  rw [List.splitBy_append, List.splitBy_of_isChain (by simpa using hn) hrun, List.singleton_append]
  intro x hx y hy
  obtain rfl : v = x := by simpa [List.getLast?_replicate, hn] using hx
  exact decide_eq_false fun hvy => hclose (hvy ▸ hy)

/-- The tokens that runs of these lengths need (R230). -/
def runTokens (runs : List (List α)) : Nat := (runs.map fun r => (r.length + 254) / 255).sum

theorem length_tokenize_replicate_append (v : α) {n : Nat} (hn : n ≠ 0) (xs : List α) :
    (tokenize (List.replicate n v ++ xs)).length =
      runTokens ((List.replicate n v ++ xs).splitBy (fun a b => decide (a = b))) := by
  induction xs generalizing v n with
  | nil =>
    have hclose : v ∉ ([] : List α).head? := by simp
    rw [length_tokenize_run hclose, splitBy_run hclose hn]
    simp [runTokens, tokenize]
  | cons x xs ih =>
    by_cases hx : v = x
    · subst hx
      rw [← List.singleton_append, ← List.append_assoc, ← List.replicate_succ']
      exact ih v n.succ_ne_zero
    · have hclose : v ∉ (x :: xs).head? := by simpa using Ne.symm hx
      have hrest := ih x one_ne_zero
      rw [List.replicate_one, List.singleton_append] at hrest
      rw [length_tokenize_run hclose, splitBy_run hclose hn, hrest]
      simp [runTokens]

/-- The length of the token list is the sum over the maximal runs (R232). -/
theorem length_tokenize (seq : List α) :
    (tokenize seq).length = runTokens (seq.splitBy (fun a b => decide (a = b))) := by
  cases seq with
  | nil => rfl
  | cons x xs => exact length_tokenize_replicate_append x one_ne_zero xs

end Tokens

/-- Settles O52: the tokenizer's list has the three facts, which leave no other. -/
theorem tokenizerIsTheUniqueMaximalRunList : Obligations.TokenizerIsTheUniqueMaximalRunList := by
  intro α _ seq
  exact ⟨fun toks => ⟨EncodesRuns.eq_tokenize, fun h => h ▸ encodesRuns_tokenize seq⟩, length_tokenize seq⟩

end Sys2Proof.Machine
end

section
/-! PROOFS. The run-length and media family, second part: what RLE_IMAGE, RLE_AUDIO and RLE_VIDEO write (R141 to R143,
R150), and that RLE_VIDEO may be run on consecutive parts (R246). -/

namespace Sys2Proof.Machine

/-! ### The bytes of the streams (R141 to R143) -/

/-- In a stream of `w` bytes per token, the bytes of token `k` stand from position `w * k` up. -/
theorem getElem?_flatMap_of_uniform {α β : Type} {f : α → List β} {w : Nat} (hw : ∀ x, (f x).length = w) {x : α}
    {i : Nat} (hi : i < w) :
    ∀ {l : List α} {k : Nat}, l[k]? = some x → (l.flatMap f)[w * k + i]? = (f x)[i]?
  | [], k, h => by simp at h
  | y :: l, 0, h => by
    obtain rfl : y = x := by simpa using h
    rw [List.flatMap_cons, Nat.mul_zero, Nat.zero_add, List.getElem?_append_left (by rwa [hw])]
  | y :: l, k + 1, h => by
    rw [List.flatMap_cons, List.getElem?_append_right (by rw [hw, Nat.mul_succ]; omega), hw,
      show w * (k + 1) + i - w = w * k + i by rw [Nat.mul_succ]; omega]
    exact getElem?_flatMap_of_uniform hw hi h

theorem imageStream_getElem? {toks : List (Token Byte)} {k : Nat} {v : Byte} {c : Nat} (h : toks[k]? = some (v, c)) :
    (imageStream toks)[2 * k]? = some v ∧ (imageStream toks)[2 * k + 1]? = some (BitVec.ofNat 8 c) := by
  have hbyte {i : Nat} (hi : i < 2) : (imageStream toks)[2 * k + i]? = [v, BitVec.ofNat 8 c][i]? :=
    getElem?_flatMap_of_uniform (f := fun t : Token Byte => [t.1, BitVec.ofNat 8 t.2]) (fun _ => rfl) hi h
  exact ⟨hbyte (i := 0) (by omega), hbyte (i := 1) (by omega)⟩

theorem audioStream_getElem? {toks : List (Token (BitVec 16))} {k : Nat} {w : BitVec 16} {c : Nat}
    (h : toks[k]? = some (w, c)) :
    (audioStream toks)[3 * k]? = some (w.extractLsb' 0 8) ∧
    (audioStream toks)[3 * k + 1]? = some (w.extractLsb' 8 8) ∧
    (audioStream toks)[3 * k + 2]? = some (BitVec.ofNat 8 c) := by
  have hbyte {i : Nat} (hi : i < 3) : (audioStream toks)[3 * k + i]? = (le16 w ++ [BitVec.ofNat 8 c])[i]? :=
    getElem?_flatMap_of_uniform (f := fun t : Token (BitVec 16) => le16 t.1 ++ [BitVec.ofNat 8 t.2]) (fun _ => rfl) hi h
  exact ⟨hbyte (i := 0) (by omega), hbyte (i := 1) (by omega), hbyte (i := 2) (by omega)⟩

theorem videoStream_append (xs ys : List (List (Token Byte))) :
    videoStream (xs ++ ys) = videoStream xs ++ videoStream ys := List.flatMap_append

/-- The bytes of a big-endian number are its digits to the base 256, the most significant first (R15). -/
theorem be32_ofNat (n : Nat) :
    be32 (BitVec.ofNat 32 n) =
      [BitVec.ofNat 8 (n / 2 ^ 24), BitVec.ofNat 8 (n / 2 ^ 16), BitVec.ofNat 8 (n / 2 ^ 8), BitVec.ofNat 8 n] := by
  have hbyte : ∀ k, k + 8 ≤ 32 → (BitVec.ofNat 32 n).extractLsb' k 8 = BitVec.ofNat 8 (n / 2 ^ k) := by
    intro k hk
    apply BitVec.eq_of_getLsbD_eq
    intro i hi
    simp only [BitVec.getLsbD_extractLsb', BitVec.getLsbD_ofNat, Nat.testBit_div_two_pow, hi, decide_true,
      show k + i < 32 by omega, Bool.true_and, Nat.add_comm]
  simp [be32, hbyte]

/-- The count byte of a token is its count (R230). -/
theorem EncodesRuns.count_toNat {α : Type} {seq : List α} {toks : List (Token α)} (h : EncodesRuns seq toks) {k : Nat}
    {v : α} {c : Nat} (hk : toks[k]? = some (v, c)) : (BitVec.ofNat 8 c).toNat = c := by
  obtain ⟨-, hcounts, -⟩ := h
  have hc : c ≤ 255 := (hcounts _ (List.mem_of_getElem? hk)).2
  rw [BitVec.toNat_ofNat]
  omega

/-! ### The output that fits (R150) -/

/-- `t` is `s` after `out` has been written and `r` recorded. -/
def Wrote (r : Results) (out : List Byte) (s t : State) : Prop :=
  Recorded .none 0#32 t ∧ t.dst.readBytes s.dstOff.toNat out.length = out ∧ DstKeptOutside out.length s t ∧
  t.results = r ∧ Untouched s t ∧ SameTables s t

theorem State.emit_wrote {r : Results} {out : List Byte} {s : State}
    (h : s.dstOff.toNat + out.length ≤ s.params.dstSize) : Wrote r out s (s.emit r out) := by
  obtain ⟨hrecorded, hread, hkept, hresults⟩ := State.emit_written (r := r) h
  exact ⟨hrecorded, hread, hkept, hresults, untouched_emit r out s, sameTables_emit r out s⟩

theorem outByte_of_readBytes {s t : State} {out : List Byte} (hread : t.dst.readBytes s.dstOff.toNat out.length = out)
    {j : Nat} {b : Byte} (hb : out[j]? = some b) : outByte s t j = b := by
  have hj : j < out.length := (List.getElem?_eq_some_iff.mp hb).1
  rw [← hread, Memory.readBytes_eq_map, List.getElem?_map, List.getElem?_range hj] at hb
  exact Option.some.inj hb

/-! ### The three commands on an input they accept (R235, R240, R245) -/

/-- Settles O38: the tokenizer's list is the given one, and its image stream is written. -/
theorem rleImageWritesValueCountPairs : Obligations.RleImageWritesValueCountPairs := by
  intro s toks hrange hne htoks hfits
  rw [← imageStream_length] at hfits
  obtain ⟨hrecorded, hread, hkept, hresults, hu, htables⟩ :=
    State.emit_wrote (r := rleResults (2 * toks.length) toks.length 0) hfits
  refine ⟨_, exec_rleImage_accepted (State.inputError_eq_none.mpr ⟨hrange, hne⟩), ?_⟩
  rw [← htoks.eq_tokenize]
  refine ⟨hrecorded, fun k v c hk => ?_, imageStream_length toks ▸ hkept, hresults, hu, htables⟩
  obtain ⟨hvalue, hcount⟩ := imageStream_getElem? hk
  exact ⟨outByte_of_readBytes hread hvalue, outByte_of_readBytes hread hcount ▸ htoks.count_toNat hk⟩

/-- Settles O39: the samples of the input are the given ones, and the audio stream of their tokens is written. -/
theorem rleAudioWritesValueCountTriples : Obligations.RleAudioWritesValueCountTriples := by
  intro s smps toks hrange hne hlen hval htoks hfits
  rw [← audioStream_length] at hfits
  obtain ⟨hrecorded, hread, hkept, hresults, hu, htables⟩ :=
    State.emit_wrote (r := rleResults (3 * toks.length) toks.length 0) hfits
  refine ⟨_, exec_rleAudio_accepted (State.inputError_eq_none.mpr ⟨hrange, hne⟩) (by omega), ?_⟩
  rw [State.samples_input hlen hval, ← htoks.eq_tokenize]
  refine ⟨hrecorded, fun k w c hk => ?_, audioStream_length toks ▸ hkept, hresults, hu, htables⟩
  obtain ⟨hlow, hhigh, hcount⟩ := audioStream_getElem? hk
  exact ⟨outByte_of_readBytes hread hlow, outByte_of_readBytes hread hhigh,
    outByte_of_readBytes hread hcount ▸ htoks.count_toNat hk⟩

/-- Settles O40: the frames of the input are the given ones, and the segments of their tokens are written. -/
theorem rleVideoWritesPrefixedSegments : Obligations.RleVideoWritesPrefixedSegments := by
  intro s frs toks hrange hne hpos hflat hlen htoks total n hfits
  have hn : (videoStream toks).length = n := by rw [videoStream_length, ← htoks.length_eq]
  rw [← hn] at hfits ⊢
  obtain ⟨hrecorded, hread, hkept, hresults, hu, htables⟩ :=
    State.emit_wrote (r := rleResults n total frs.length) hfits
  refine ⟨_, exec_rleVideo_accepted (State.inputError_eq_none.mpr ⟨hrange, hne⟩) hpos
    (State.srcLen_mod_frameLen hflat hlen), ?_⟩
  rw [State.frames_input hpos hflat hlen, map_tokenize_of_encodesRuns htoks, videoOutput, tokenTotal, ← htoks.length_eq]
  refine ⟨hrecorded, hread.trans ?_, hkept, hn ▸ hresults, hu, htables⟩
  exact List.flatMap_congr fun tk _ => congrArg (· ++ imageStream tk) (be32_ofNat tk.length)

/-! ### A successful RLE_VIDEO (R245, R150) -/

theorem State.videoError_ne_none {s : State} {e : ErrCode} (h : s.videoError = some e) : e ≠ .none := by
  unfold State.videoError at h
  split at h
  next hin => exact Option.some.inj h ▸ State.inputError_ne_none hin
  · split at h
    · exact Option.some.inj h ▸ nofun
    · cases h

/-- The token lists of the frames of the input (R245). -/
def State.videoTokens (s : State) : List (List (Token Byte)) := (frames s.frameLen.toNat s.input).map tokenize

/-- The result registers that RLE_VIDEO assigns (R245). -/
def videoResults (toks : List (List (Token Byte))) : Results :=
  rleResults (4 * toks.length + 2 * tokenTotal toks) (tokenTotal toks) toks.length

/-- The end of an RLE_VIDEO whose segments fit. -/
def State.videoWritten (s : State) : State :=
  (s.putOutput (videoStream s.videoTokens)).succeed (videoResults s.videoTokens)

/-- RLE_VIDEO succeeds exactly on an accepted input whose segments fit, and then ends with them written. -/
theorem exec_rleVideo_succeeds_iff {s t : State} :
    (exec .rleVideo s = .next t ∧ t.errCode = .none) ↔
      s.videoError = none ∧ s.dstOff.toNat + (videoStream s.videoTokens).length ≤ s.params.dstSize ∧
      t = s.videoWritten := by
  constructor
  · rintro ⟨h, hok⟩
    obtain ⟨e, herr, rfl⟩ | ⟨herr, rfl⟩ := execRleVideo_cases h
    · exact absurd hok (State.videoError_ne_none herr)
    · obtain ⟨hfits, hemit⟩ | ⟨-, hemit⟩ :=
        State.emit_cases (videoResults s.videoTokens) (videoStream s.videoTokens) s
      · exact ⟨herr, hfits, hemit⟩
      · exact absurd ((congrArg State.errCode hemit).symm.trans hok) nofun
  · rintro ⟨herr, hfits, rfl⟩
    obtain ⟨hin, hpos, hmod⟩ := State.videoError_eq_none.mp herr
    exact ⟨(exec_rleVideo_accepted hin hpos hmod).trans (congrArg _ (State.emit_fits hfits)), rfl⟩

/-- Segments that fit into 2^32 bytes are counted exactly (R44, R47, R48). -/
theorem videoResults_toNat {toks : List (List (Token Byte))} (h : (videoStream toks).length < 2 ^ 32) :
    (videoResults toks).outLen.toNat = (videoStream toks).length ∧
    (videoResults toks).frames.toNat = toks.length ∧ (videoResults toks).tokens.toNat = tokenTotal toks := by
  have hlen : (videoStream toks).length = 4 * toks.length + 2 * tokenTotal toks := videoStream_length toks
  simp only [videoResults, rleResults, BitVec.toNat_ofNat]
  omega

/-- The result registers of a whole are the sums of those of two parts. -/
theorem videoResults_append {xs ys : List (List (Token Byte))}
    (h : (videoStream xs).length + (videoStream ys).length < 2 ^ 32) :
    (videoResults xs).outLen.toNat + (videoResults ys).outLen.toNat = (videoResults (xs ++ ys)).outLen.toNat ∧
    (videoResults xs).frames.toNat + (videoResults ys).frames.toNat = (videoResults (xs ++ ys)).frames.toNat ∧
    (videoResults xs).tokens.toNat + (videoResults ys).tokens.toNat = (videoResults (xs ++ ys)).tokens.toNat := by
  have hlen : (videoStream (xs ++ ys)).length = (videoStream xs).length + (videoStream ys).length := by
    rw [videoStream_append, List.length_append]
  have htotal : tokenTotal (xs ++ ys) = tokenTotal xs + tokenTotal ys := by
    simp [tokenTotal]
  obtain ⟨hout, hframes, htokens⟩ := videoResults_toNat (toks := xs ++ ys) (by omega)
  obtain ⟨hout1, hframes1, htokens1⟩ := videoResults_toNat (toks := xs) (by omega)
  obtain ⟨hout2, hframes2, htokens2⟩ := videoResults_toNat (toks := ys) (by omega)
  rw [List.length_append] at hframes
  omega

/-! ### Two runs over consecutive parts (R246) -/

theorem Memory.writeBytes_append (m : Memory) (a : Nat) (xs ys : List Byte) :
    m.writeBytes a (xs ++ ys) = (m.writeBytes a xs).writeBytes (a + xs.length) ys := by
  induction xs generalizing m a with
  | nil => rfl
  | cons x xs ih =>
    rw [List.cons_append, Memory.writeBytes, Memory.writeBytes, ih, List.length_cons, Nat.add_assoc, Nat.add_comm 1]

theorem Memory.readBytes_add (m : Memory) (a k l : Nat) :
    m.readBytes a (k + l) = m.readBytes a k ++ m.readBytes (a + k) l := by
  simp only [Memory.readBytes_eq_map, List.range_add, List.map_append, List.map_map, Function.comp_def, Nat.add_assoc]

/-- A cut at a frame boundary cuts no frame. -/
theorem frames_append_of_dvd {fl : Nat} (hfl : 0 < fl) {xs : List Byte} (hdvd : fl ∣ xs.length) (ys : List Byte) :
    frames fl (xs ++ ys) = frames fl xs ++ frames fl ys := by
  obtain ⟨q, hq⟩ := hdvd
  induction q generalizing xs with
  | zero =>
    obtain rfl : xs = [] := List.length_eq_zero_iff.mp hq
    simp [frames]
  | succ q ih =>
    rw [Nat.mul_succ] at hq
    have hfirst : (xs.take fl).length = fl := by rw [List.length_take]; omega
    have hrest : (xs.drop fl).length = fl * q := by rw [List.length_drop]; omega
    rw [← List.take_append_drop fl xs, List.append_assoc, frames_append hfl hfirst, frames_append hfl hfirst,
      ih hrest, List.cons_append]

/-- The inputs of `s1` and `s2` are two consecutive parts of the input of `s`, cut at a frame boundary. -/
structure CutAtFrame (s s1 s2 : State) : Prop where
  params : s1.params = s.params ∧ s2.params = s.params
  src : s1.src = s.src ∧ s2.src = s.src
  frameLen : s1.frameLen = s.frameLen ∧ s2.frameLen = s.frameLen
  srcOff : s1.srcOff.toNat = s.srcOff.toNat ∧ s2.srcOff.toNat = s.srcOff.toNat + s1.srcLen.toNat
  srcLen : s1.srcLen.toNat + s2.srcLen.toNat = s.srcLen.toNat
  nonempty : 0 < s1.srcLen.toNat ∧ 0 < s2.srcLen.toNat
  wholeFrames : s.frameLen.toNat ∣ s1.srcLen.toNat

theorem CutAtFrame.videoTokens {s s1 s2 : State} (h : CutAtFrame s s1 s2) (hpos : 0 < s.frameLen.toNat) :
    s.videoTokens = s1.videoTokens ++ s2.videoTokens := by
  have hinput : s.input = s1.input ++ s2.input := by
    simp only [State.input, h.src, h.srcOff, ← h.srcLen, Memory.readBytes_add]
  have hdvd : s.frameLen.toNat ∣ s1.input.length := s1.input_length ▸ h.wholeFrames
  simp only [State.videoTokens, h.frameLen, hinput, frames_append_of_dvd hpos hdvd, List.map_append]

/-- Both parts of an accepted input are accepted (R304). -/
theorem CutAtFrame.videoError {s s1 s2 : State} (h : CutAtFrame s s1 s2) (herr : s.videoError = none) :
    s1.videoError = none ∧ s2.videoError = none := by
  obtain ⟨hin, hpos, hmod⟩ := State.videoError_eq_none.mp herr
  obtain ⟨hrange, -⟩ := State.inputError_eq_none.mp hin
  have hdvd : s.frameLen.toNat ∣ s2.srcLen.toNat :=
    (Nat.dvd_add_right h.wholeFrames).mp (h.srcLen.symm ▸ Nat.dvd_of_mod_eq_zero hmod)
  have hlen := h.srcLen
  simp only [State.videoError_eq_none, State.inputError_eq_none, h.params, h.frameLen, h.srcOff, h.nonempty,
    Nat.mod_eq_zero_of_dvd hdvd, Nat.mod_eq_zero_of_dvd h.wholeFrames, hpos, and_true]
  omega

/-- The stream of an input is the streams of its parts, one after the other. -/
theorem CutAtFrame.stream {s s1 s2 : State} (h : CutAtFrame s s1 s2) (hpos : 0 < s.frameLen.toNat) :
    videoStream s.videoTokens = videoStream s1.videoTokens ++ videoStream s2.videoTokens := by
  rw [h.videoTokens hpos, videoStream_append]

/-- Both parts are written where the whole is (R150). -/
theorem CutAtFrame.exec_rleVideo {s s1 s2 : State} (h : CutAtFrame s s1 s2) (herr : s.videoError = none)
    (hfits : s.dstOff.toNat + (videoStream s1.videoTokens).length +
      (videoStream s2.videoTokens).length ≤ s.params.dstSize)
    (hoff1 : s1.dstOff = s.dstOff)
    (hoff2 : s2.dstOff.toNat = s.dstOff.toNat + (videoStream s1.videoTokens).length) :
    (exec .rleVideo s1 = .next s1.videoWritten ∧ s1.videoWritten.errCode = .none) ∧
    (exec .rleVideo s2 = .next s2.videoWritten ∧ s2.videoWritten.errCode = .none) := by
  obtain ⟨herr1, herr2⟩ := h.videoError herr
  simp only [exec_rleVideo_succeeds_iff, herr1, herr2, h.params, hoff1, hoff2, true_and, and_true]
  omega

/-- The bytes of the second run stand behind those of the first. -/
theorem CutAtFrame.videoWritten_dst {s s1 s2 : State} (h : CutAtFrame s s1 s2) (hpos : 0 < s.frameLen.toNat)
    (hoff1 : s1.dstOff = s.dstOff) (hdst1 : s1.dst = s.dst)
    (hoff2 : s2.dstOff.toNat = s.dstOff.toNat + (videoStream s1.videoTokens).length)
    (hdst2 : s2.dst = s1.videoWritten.dst) : s2.videoWritten.dst = s.videoWritten.dst := by
  simp only [State.videoWritten, State.succeed_dst, State.putOutput_dst] at hdst2 ⊢
  rw [hdst2, hoff2, hdst1, hoff1, h.stream hpos, Memory.writeBytes_append]

/-- `s` with only the first `a` bytes of its input. -/
def State.firstPart (a : Nat) (s : State) : State := { s with srcLen := BitVec.ofNat 32 a }

/-- `t` with the input of `s` from byte `a` on, and DST_OFF past the output of the first run. -/
def State.restPart (a : Nat) (s t : State) : State :=
  { t with
    srcOff := BitVec.ofNat 32 (s.srcOff.toNat + a)
    srcLen := BitVec.ofNat 32 (s.srcLen.toNat - a)
    dstOff := BitVec.ofNat 32 (s.dstOff.toNat + t.results.outLen.toNat) }

theorem cutAtFrame_parts {s : State} {a : Nat} (hp : s.params.wf = true)
    (hrange : s.srcOff.toNat + s.srcLen.toNat ≤ s.params.srcSize) (ha : 0 < a ∧ a < s.srcLen.toNat)
    (hdvd : s.frameLen.toNat ∣ a) :
    CutAtFrame s (s.firstPart a) (s.restPart a (s.firstPart a).videoWritten) := by
  have hsize : s.params.srcSize ≤ 2 ^ 24 := (Params.wf_iff.mp hp).1.2
  have hlen1 : (s.firstPart a).srcLen.toNat = a := Nat.mod_eq_of_lt (by omega)
  have hlen2 : (s.restPart a (s.firstPart a).videoWritten).srcLen.toNat = s.srcLen.toNat - a :=
    Nat.mod_eq_of_lt (by omega)
  have hoff2 : (s.restPart a (s.firstPart a).videoWritten).srcOff.toNat = s.srcOff.toNat + a :=
    Nat.mod_eq_of_lt (by omega)
  exact ⟨⟨rfl, rfl⟩, ⟨rfl, rfl⟩, ⟨rfl, rfl⟩, ⟨rfl, by omega⟩, by omega, by omega, hlen1.symm ▸ hdvd⟩

theorem State.restPart_dstOff_toNat {s t : State} {a : Nat} (h : s.dstOff.toNat + t.results.outLen.toNat < 2 ^ 32) :
    (s.restPart a t).dstOff.toNat = s.dstOff.toNat + t.results.outLen.toNat := Nat.mod_eq_of_lt h

/-- Settles O60: the token lists of the parts are those of the whole, so their segments are written one after the
other. -/
theorem videoSegmentsCompose : Obligations.VideoSegmentsCompose := by
  intro s t a hp hexec hok hpos ha hdvd
  obtain ⟨herr, hfits, rfl⟩ := exec_rleVideo_succeeds_iff.mp ⟨hexec, hok⟩
  obtain ⟨hin, hfl, -⟩ := State.videoError_eq_none.mp herr
  have hcut := cutAtFrame_parts hp (State.inputError_eq_none.mp hin).1 ⟨hpos, ha⟩ hdvd
  have hsize : s.params.dstSize ≤ 2 ^ 24 := (Params.wf_iff.mp hp).2.2
  rw [hcut.stream hfl, List.length_append, ← Nat.add_assoc] at hfits
  have hout1 : (s.firstPart a).videoWritten.results.outLen.toNat =
      (videoStream (s.firstPart a).videoTokens).length := (videoResults_toNat (by omega)).1
  have hoff := (State.restPart_dstOff_toNat (a := a) (by omega)).trans (congrArg (s.dstOff.toNat + ·) hout1)
  obtain ⟨⟨hexec1, hok1⟩, hexec2, hok2⟩ := hcut.exec_rleVideo herr hfits rfl hoff
  have hresults := videoResults_append (xs := (s.firstPart a).videoTokens)
    (ys := (s.restPart a (s.firstPart a).videoWritten).videoTokens) (by omega)
  rw [← hcut.videoTokens hfl] at hresults
  exact ⟨_, _, hexec1, hok1, hexec2, hok2, fun j => by rw [hcut.videoWritten_dst hfl rfl rfl hoff rfl], hresults⟩

end Sys2Proof.Machine
end

section
/-! PROOFS. The control family (spec/42_control.md): NOP, acceptance, the acknowledge, and the completion of a BUSY
CORE, which no host access but a reset disturbs (R107, R280 to R284). -/

namespace Sys2Proof.Machine

/-! ### NOP (R282) -/

/-- Settles O32: NOP is a successful completion that keeps the result registers. -/
theorem nopOnlyRecordsItsCompletion : Obligations.NopOnlyRecordsItsCompletion := fun _ => rfl

/-! ### The engine's turn (R281) -/

theorem engineTurn_command {s : State} {i : Instr} (hbusy : s.seq = .busy) (h : decode s.cmd = .ok i) :
    engineTurn s = exec i s := by
  simp [engineTurn, hbusy, complete, fetchWord, h]

/-- Settles O4: both schedules give the engine its turn, which runs the decoded command. -/
theorem stepRunsTheDecodedCommand : Obligations.StepRunsTheDecodedCommand := by
  intro s i rest hbusy hcmd
  refine ⟨fun hnil => ?_, fun hhead => ?_⟩
  · exact (step_of_nil hnil).trans (engineTurn_command hbusy hcmd)
  · exact (step_of_engine hhead).trans (engineTurn_command (s := s.setInbox rest) hbusy hcmd)

/-- Whatever the word in CMD, the turn of a BUSY engine ends the command: with its outcome, or with ILLEGAL_CMD. -/
theorem engineTurn_completes {s : State} (hbusy : s.seq = .busy) :
    ∃ t, engineTurn s = .next t ∧ t.seq = .idle ∧ t.done = true := by
  cases hcmd : decode s.cmd with
  | ok i =>
    obtain ⟨t, ht⟩ := exec_answers i s
    obtain ⟨hdone, hidle, -⟩ := exec_records ht
    exact ⟨t, (engineTurn_command hbusy hcmd).trans ht, hidle, hdone⟩
  | error why => exact ⟨_, engineTurn_illegal hbusy hcmd, rfl, rfl⟩

/-! ### Acceptance and the acknowledge (R280, R284) -/

/-- Settles O15, from the write of CMD in IDLE and in BUSY. -/
theorem acceptanceStoresTheWordAndGoesBusy : Obligations.AcceptanceStoresTheWordAndGoesBusy := by
  intro s v
  refine ⟨fun hidle => ⟨?_, rfl⟩, fun hbusy => ?_⟩
  · exact hostTurn_writeReg_idle .cmd v s hidle
  · exact hostTurn_writeReg_busy .cmd v s hbusy

/-- Of a written STATUS only bit 1 matters, and it reaches only DONE. -/
theorem writeStatus_eq (v : Word) (s : State) :
    writeStatus v s = { s with done := if v.getLsbD 1 then false else s.done } := by
  unfold writeStatus
  split <;> rfl

/-- Settles O16: the write of STATUS, and that the invariant has DONE clear while BUSY. -/
theorem acknowledgeClearsOnlyDone : Obligations.AcknowledgeClearsOnlyDone := by
  intro s v
  have hwrite : hostTurn (.write 0x00000014#32 .word v) s =
      .next { s with done := if v.getLsbD 1 then false else s.done, resp := some .done } :=
    (hostTurn_writeReg_always (r := .status) rfl v s).trans (by rw [writeReg, writeStatus_eq]; rfl)
  refine ⟨hwrite, fun hco hbusy => ?_⟩
  obtain ⟨hdone, -⟩ := hco.busyQuiet hbusy
  have hkept : (if v.getLsbD 1 then false else s.done) = s.done := by rw [hdone, ite_self]
  rw [hkept] at hwrite
  exact ⟨hdone, hwrite⟩

/-! ### A BUSY CORE until its completion (R70, R107, R281) -/

/-- `t` is `s` but for what a host can change while BUSY without a reset: IRQ_EN, DONE, the draw counter and the port's
answer. -/
def SameInFlight (s t : State) : Prop :=
  ∃ (irqEn done : Bool) (draws : Nat) (resp : Option Response),
    t = { s with irqEn := irqEn, done := done, draws := draws, resp := resp }

theorem sameInFlight_respond (a : Response) (s : State) : SameInFlight s (s.respond a) := ⟨_, _, _, _, rfl⟩

theorem sameInFlight_read {s : State} (hbusy : s.seq = .busy) (r : Reg) (a : Response) :
    SameInFlight s ((readReg r s).2.respond a) := by
  cases hr : drawnWhileBusy r with
  | false =>
    rw [readReg_stable hr]
    exact sameInFlight_respond a s
  | true =>
    rw [readReg_drawn hbusy hr]
    exact ⟨_, _, _, _, rfl⟩

theorem sameInFlight_writeCtrl {v : Word} (hv : v.getLsbD 1 = false) (a : Response) (s : State) :
    SameInFlight s ((writeCtrl v s).respond a) := by
  rw [writeCtrl_irqEn hv]
  exact ⟨_, _, _, _, rfl⟩

theorem sameInFlight_writeStatus (v : Word) (a : Response) (s : State) :
    SameInFlight s ((writeStatus v s).respond a) := by
  rw [writeStatus_eq]
  exact ⟨_, _, _, _, rfl⟩

/-- While BUSY the port is open to the aligned words of the register file only (R105, R107). -/
theorem hostTurn_busy_outside {s : State} (hbusy : s.seq = .busy) {addr : Word} {w : Width}
    (hout : ¬ (addr.toNat < 0x1000 ∧ w = .word ∧ addr.toNat % 4 = 0)) (v : Word) : Refused s addr w v :=
  refused_busy_of_not_reg hbusy (fun _ hl => hout (locate_ok_reg hl)) v

/-- No host access but a reset disturbs the command in flight (R107): what it reaches is a register it reads, CTRL,
STATUS, or nothing. -/
theorem hostTurn_busy {s : State} (hbusy : s.seq = .busy) {a : Access} (ha : isReset (.access a) = false) :
    ∃ t, hostTurn a s = .next t ∧ SameInFlight s t := by
  cases a with
  | read addr w =>
    by_cases hin : addr.toNat < 0x1000 ∧ w = .word ∧ addr.toNat % 4 = 0
    · obtain ⟨hlt, rfl, halign⟩ := hin
      exact ⟨_, hostTurn_of_next (portAccess_read (locate_register _ hlt halign)), sameInFlight_read hbusy _ _⟩
    · exact ⟨_, (hostTurn_busy_outside hbusy hin 0#32).1, sameInFlight_respond _ s⟩
  | write addr w v =>
    by_cases hin : addr.toNat < 0x1000 ∧ w = .word ∧ addr.toNat % 4 = 0
    · obtain ⟨hlt, rfl, halign⟩ := hin
      obtain ⟨hfile, -⟩ := busyPortLocksTheMachine s addr .word v hbusy
      obtain ⟨-, -, hlocked⟩ := hfile hlt halign
      by_cases hctrl : addr = regAddr .ctrl
      · have hv : v.getLsbD 1 = false := by simpa [isReset, hctrl] using ha
        subst hctrl
        exact ⟨_, hostTurn_writeReg_always (r := .ctrl) rfl v s, sameInFlight_writeCtrl hv _ s⟩
      by_cases hstatus : addr = regAddr .status
      · subst hstatus
        exact ⟨_, hostTurn_writeReg_always (r := .status) rfl v s, sameInFlight_writeStatus v _ s⟩
      · exact ⟨_, hlocked hctrl hstatus, sameInFlight_respond _ s⟩
    · exact ⟨_, (hostTurn_busy_outside hbusy hin v).2, sameInFlight_respond _ s⟩

/-- Settles O7, by induction on the schedule: an access takes one step and keeps the command in flight, and when the
engine's turn comes, or nothing is left, the command completes. -/
theorem busyCommandCompletesWithStableInputs : Obligations.BusyCommandCompletesWithStableInputs := by
  intro s hbusy hnoReset
  induction hi : s.inbox generalizing s with
  | nil =>
    obtain ⟨t, hturn, hrecord⟩ := engineTurn_completes hbusy
    exact ⟨0, s, t, Nat.zero_le _, rfl, by simp [SameTables, hbusy, step_of_nil hi, hturn, hrecord]⟩
  | cons e rest ih =>
    rw [hi, List.forall_mem_cons] at hnoReset
    obtain ⟨he, hrest⟩ := hnoReset
    cases e with
    | powerOn => cases he
    | engine =>
      obtain ⟨t, hturn, hrecord⟩ := engineTurn_completes (s := s.setInbox rest) hbusy
      exact ⟨0, s, t, Nat.zero_le _, rfl, by simp [SameTables, hbusy, step_of_engine hi, hturn, hrecord]⟩
    | access a =>
      obtain ⟨_, hturn, irqEn, done, draws, resp, rfl⟩ := hostTurn_busy (s := s.setInbox rest) hbusy he
      have hstep := (step_of_access hi).trans hturn
      obtain ⟨k, u, t, hk, hu, hkept⟩ := ih { s.setInbox rest with irqEn, done, draws, resp } hbusy hrest rfl
      exact ⟨k + 1, u, t, Nat.succ_le_succ hk, (run_succ_of_step hstep).trans hu, hkept⟩

end Sys2Proof.Machine
end

section
/-! PROOFS. The exceptions family (spec/60_exceptions.md), first part: what can end a command (R300 to R304). Each error
a command may raise is raised by one of its checks, which leave everything but the completion record alone, or by the
output rule. -/

namespace Sys2Proof.Machine

/-! ### What the checks answer (R301, R304) -/

theorem State.inputError_mem {s : State} {e : ErrCode} (h : s.inputError = some e) :
    e ∈ [ErrCode.srcRange, .emptyInput] := by
  simpa using State.inputError_cases h

theorem State.audioError_eq_or (s : State) :
    s.audioError = s.inputError.or (if s.srcLen.toNat % 2 = 1 then some .badLength else none) := by
  unfold State.audioError
  cases s.inputError <;> rfl

theorem State.videoError_eq_or (s : State) :
    s.videoError = s.inputError.or
      (if s.frameLen.toNat = 0 || s.srcLen.toNat % s.frameLen.toNat != 0 then some .badLength else none) := by
  unfold State.videoError
  cases s.inputError <;> rfl

/-- A check of the length after those of the input adds BAD_LENGTH to their errors. -/
theorem State.lengthCheck_mem {s : State} {e : ErrCode} {bad : Prop} [Decidable bad]
    (h : s.inputError.or (if bad then some .badLength else none) = some e) :
    e ∈ [ErrCode.srcRange, .emptyInput, .badLength] := by
  obtain hin | ⟨-, hlen⟩ := Option.or_eq_some_iff.mp h
  · exact List.mem_append_left [.badLength] (State.inputError_mem hin)
  · split at hlen
    · obtain rfl := Option.some.inj hlen
      decide
    · cases hlen

theorem State.audioError_mem {s : State} {e : ErrCode} (h : s.audioError = some e) :
    e ∈ [ErrCode.srcRange, .emptyInput, .badLength] := State.lengthCheck_mem (s.audioError_eq_or ▸ h)

theorem State.videoError_mem {s : State} {e : ErrCode} (h : s.videoError = some e) :
    e ∈ [ErrCode.srcRange, .emptyInput, .badLength] := State.lengthCheck_mem (s.videoError_eq_or ▸ h)

/-! ### What can end a command (R304) -/

/-- The errors that the checks of a command raise before it writes anything (R304). -/
def checkErrors : Instr → List ErrCode
  | .nop => []
  | .huffEncode | .freqCount | .rleImage => [.srcRange, .emptyInput]
  | .treeBuild => [.noTable]
  | .codeGen => [.noTree]
  | .bitPack => [.noCodes, .srcRange, .emptyInput, .missingCode]
  | .rleAudio | .rleVideo => [.srcRange, .emptyInput, .badLength]

/-- A check of the command has failed: its error is raised, with ERR_INFO 0 unless it names a position (R41, R302). -/
def Rejected (i : Instr) (s t : State) : Prop :=
  ∃ e info, e ∈ checkErrors i ∧ (e ≠ .missingCode → info = 0#32) ∧ t = s.raise e info

theorem rejected_raise {i : Instr} {e : ErrCode} (he : e ∈ checkErrors i) (s : State) :
    Rejected i s (s.raise e 0#32) := ⟨e, 0#32, he, fun _ => rfl, rfl⟩

/-- Everything a command can do: fail a check, end in the output rule if it writes DST, or succeed. -/
theorem exec_completion_cases {i : Instr} {s t : State} (h : exec i s = .next t) :
    Rejected i s t ∨ (writesDst i = true ∧ ∃ r out, t = (outputState i s).emit r out) ∨ t.errCode = .none := by
  cases i with
  | nop =>
    obtain rfl := execNop_cases h
    exact .inr (.inr rfl)
  | huffEncode =>
    obtain ⟨e, herr, rfl⟩ | ⟨-, rfl⟩ := execHuffEncode_cases h
    · exact .inl (rejected_raise (State.inputError_mem herr) s)
    · exact .inr (.inl ⟨rfl, _, _, rfl⟩)
  | freqCount =>
    obtain ⟨e, herr, rfl⟩ | ⟨-, rfl⟩ := execFreqCount_cases h
    · exact .inl (rejected_raise (State.inputError_mem herr) s)
    · exact .inr (.inr rfl)
  | treeBuild =>
    obtain ⟨-, rfl⟩ | ⟨-, rfl⟩ := execTreeBuild_cases h
    · exact .inr (.inr rfl)
    · exact .inl (rejected_raise (by decide) s)
  | codeGen =>
    obtain ⟨-, rfl⟩ | ⟨-, rfl⟩ := execCodeGen_cases h
    · exact .inr (.inr rfl)
    · exact .inl (rejected_raise (by decide) s)
  | bitPack =>
    obtain ⟨-, rfl⟩ | ⟨-, e, herr, rfl⟩ | ⟨-, -, k, -, rfl⟩ | ⟨-, -, -, rfl⟩ := execBitPack_cases h
    · exact .inl (rejected_raise (by decide) s)
    · have he := List.mem_append_left [.missingCode] (State.inputError_mem herr)
      exact .inl (rejected_raise (List.mem_cons_of_mem _ he) s)
    · exact .inl ⟨.missingCode, _, by decide, fun hne => absurd rfl hne, rfl⟩
    · exact .inr (.inl ⟨rfl, _, _, rfl⟩)
  | rleImage =>
    obtain ⟨e, herr, rfl⟩ | ⟨-, rfl⟩ := execRleImage_cases h
    · exact .inl (rejected_raise (State.inputError_mem herr) s)
    · exact .inr (.inl ⟨rfl, _, _, rfl⟩)
  | rleAudio =>
    obtain ⟨e, herr, rfl⟩ | ⟨-, rfl⟩ := execRleAudio_cases h
    · exact .inl (rejected_raise (State.audioError_mem herr) s)
    · exact .inr (.inl ⟨rfl, _, _, rfl⟩)
  | rleVideo =>
    obtain ⟨e, herr, rfl⟩ | ⟨-, rfl⟩ := execRleVideo_cases h
    · exact .inl (rejected_raise (State.videoError_mem herr) s)
    · exact .inr (.inl ⟨rfl, _, _, rfl⟩)

/-- An output rule that does not succeed has only recorded the overflow (R150). -/
theorem State.emit_of_error {r : Results} {out : List Byte} {s : State} (h : (s.emit r out).errCode ≠ .none) :
    s.emit r out = s.finish .dstOverflow 0#32 r := by
  obtain ⟨-, hemit⟩ | ⟨-, hemit⟩ := s.emit_cases r out
  · exact absurd (congrArg State.errCode hemit) h
  · exact hemit

/-- The errors of a command: those of its checks, and DST_OVERFLOW if it writes DST (R304). -/
theorem exec_errCode {i : Instr} {s t : State} (h : exec i s = .next t) :
    t.errCode = .none ∨ t.errCode ∈ checkErrors i ++ if writesDst i then [.dstOverflow] else [] := by
  obtain ⟨e, info, he, -, rfl⟩ | ⟨hwrites, r, out, rfl⟩ | hok := exec_completion_cases h
  · exact .inr (List.mem_append_left _ he)
  · refine (State.emit_errCode r out _).imp_right fun hov => ?_
    simp [hwrites, hov]
  · exact .inl hok

/-- Settles O48: for each command, the errors of its checks and of its output are its row. -/
theorem eachCommandRaisesOnlyItsErrors : Obligations.EachCommandRaisesOnlyItsErrors := by
  intro i s t h
  cases i <;> exact exec_errCode h

/-- No check raises DST_OVERFLOW: it is the output rule's error. -/
theorem dstOverflow_not_mem_checkErrors (i : Instr) : ErrCode.dstOverflow ∉ checkErrors i := by
  cases i <;> decide

/-- Settles O47: an error has been raised by a check in the state the command found, or it is the overflow of an output,
recorded where only HUFF_ENCODE has written tables before. -/
theorem errorsArePrecise : Obligations.ErrorsArePrecise := by
  intro i s t h herr
  obtain ⟨e, info, -, hinfo, rfl⟩ | ⟨-, r, out, rfl⟩ | hok := exec_completion_cases h
  · exact ⟨rfl, untouched_raise e info s, rfl, rfl, fun _ => sameTables_raise e info s, fun _ => rfl, hinfo⟩
  · rw [State.emit_of_error herr]
    refine ⟨outputState_dst i s, (untouched_outputState i s).trans (untouched_finish _ _ _ _), rfl, rfl,
      fun hne => ?_, fun hne => absurd rfl hne, fun _ => rfl⟩
    have hi : i ≠ .huffEncode := fun hi => hne hi rfl
    rw [outputState_of_ne hi]
    exact ⟨rfl, rfl, rfl, rfl, rfl, rfl⟩
  · exact absurd hok herr

/-! ### Each check (R301, R304) -/

/-- A raised error is recorded with the result registers 0, and nothing else changes (R302, R303). -/
theorem exec_raised {i : Instr} {s : State} {e : ErrCode} {info : Word} (h : exec i s = .next (s.raise e info)) :
    ∃ t, exec i s = .next t ∧ Recorded e info t ∧ t.results = Results.zero ∧
      Untouched s t ∧ SameTables s t ∧ t.dst = s.dst :=
  ⟨_, h, ⟨rfl, rfl, rfl, rfl⟩, rfl, untouched_raise e info s, sameTables_raise e info s, rfl⟩

/-- The checks on the input come first in each command that reads SRC, but for CT_VALID in BIT_PACK. -/
theorem exec_of_inputError {i : Instr} {s : State} {e : ErrCode} (hi : readsSrc i = true)
    (hct : i = .bitPack → s.ctValid = true) (he : s.inputError = some e) : exec i s = .next (s.raise e 0#32) := by
  cases i with
  | nop | treeBuild | codeGen => cases hi
  | huffEncode => simp [exec, execHuffEncode, he]
  | freqCount => simp [exec, execFreqCount, he]
  | bitPack => simp [exec, execBitPack, hct rfl, he]
  | rleImage => simp [exec, execRleImage, he]
  | rleAudio => simp [exec, execRleAudio, State.audioError, he]
  | rleVideo => simp [exec, execRleVideo, State.videoError, he]

/-- Settles O41: both checks on the input are those of every command that reads it. -/
theorem inputErrorsInOrder : Obligations.InputErrorsInOrder := by
  intro i s hi hct
  refine ⟨fun hpast => ?_, fun hrange hempty => ?_⟩
  · exact exec_raised (exec_of_inputError hi hct (State.inputError_range hpast))
  · exact exec_raised (exec_of_inputError hi hct (State.inputError_empty hrange (congrArg BitVec.toNat hempty)))

/-- Settles O42: the VALID bit is the first check of each unit (R347). -/
theorem unitsTooEarlyReportTheMissingTable : Obligations.UnitsTooEarlyReportTheMissingTable := by
  intro s
  refine ⟨fun hft => exec_raised ?_, fun htree => exec_raised ?_, fun hct => exec_raised ?_⟩
  · simp [exec, execTreeBuild, hft]
  · simp [exec, execCodeGen, htree]
  · simp [exec, execBitPack, hct]

theorem State.audioError_odd {s : State} (hin : s.inputError = none) (hodd : s.srcLen.toNat % 2 = 1) :
    s.audioError = some .badLength := by
  simp [State.audioError, hin, hodd]

theorem State.videoError_misfit {s : State} (hin : s.inputError = none)
    (h : s.frameLen = 0#32 ∨ ¬ s.frameLen.toNat ∣ s.srcLen.toNat) : s.videoError = some .badLength := by
  obtain h | h := h
  · simp [State.videoError, hin, h]
  · simp [State.videoError, hin, mt Nat.dvd_of_mod_eq_zero h]

/-- Settles O43: the length is checked after the input has passed its own checks. -/
theorem badLengthOfAudioAndVideo : Obligations.BadLengthOfAudioAndVideo := by
  intro s hrange hne
  have hin : s.inputError = none := State.inputError_eq_none.mpr ⟨hrange, hne⟩
  refine ⟨fun hodd => exec_raised ?_, fun hfit => exec_raised ?_⟩
  · simp [exec, execRleAudio, State.audioError_odd hin hodd]
  · simp [exec, execRleVideo, State.videoError_misfit hin hfit]

end Sys2Proof.Machine
end

section
/-! PROOFS. The exceptions family, second part: the one imprecise error (R305). HUFF_ENCODE has written the tables of
its input when its output turns out not to fit, so BIT_PACK can go on from there. -/

namespace Sys2Proof.Machine

/-! ### The length of the packed codes (R178, R182) -/

theorem concatCodes_length_le {input : List Byte} {codes : List BitString} {n : Nat}
    (h : ∀ b, (codeOf codes b).length ≤ n) : (concatCodes input codes).length ≤ input.length * n := by
  have hsum := List.sum_le_card_nsmul (input.map fun b => (codeOf codes b).length) n (by simpa using fun b _ => h b)
  simpa [concatCodes, List.length_flatMap] using hsum

/-- No code of an input is longer than 255 bits and no input longer than 2^24 bytes, so OUT_LEN is exact even when the
output does not fit. -/
theorem Coherent.huffmanResults_outLen {s : State} (h : Coherent s) (hin : s.inputError = none) :
    (huffmanResults (concatCodes s.input s.withInputTables.ct).length).outLen.toNat =
      huffmanLength (concatCodes s.input s.withInputTables.ct).length := by
  have hcode : ∀ b, (codeOf s.withInputTables.ct b).length ≤ 255 := fun b =>
    (exactlyTheCountedSymbolsHaveCodes _ b (h.withInputTables hin) rfl).2.1
  have hbits := concatCodes_length_le (input := s.input) hcode
  have hinput : s.input.length ≤ 2 ^ 24 := h.input_length_le hin
  refine Nat.mod_eq_of_lt ?_
  unfold padCount
  omega

/-! ### BIT_PACK after HUFF_ENCODE's tables (R305) -/

/-- The output rule overwrites the completion record that a state carries. -/
theorem State.emit_finish (e : ErrCode) (info : Word) (r r' : Results) (out : List Byte) (s : State) :
    (s.finish e info r').emit r out = s.emit r out := by
  unfold State.emit
  split
  · exact (if_pos ‹_›).symm
  · exact (if_neg ‹_›).symm

/-- An overflowing HUFF_ENCODE has accepted its input and leaves the input's tables (R185, R305). -/
theorem exec_huffEncode_overflow {s t : State} (h : exec .huffEncode s = .next t) (hov : t.errCode = .dstOverflow) :
    s.inputError = none ∧ t = s.withInputTables.finish .dstOverflow 0#32
      (huffmanResults (concatCodes s.input s.withInputTables.ct).length) := by
  obtain ⟨e, herr, rfl⟩ | ⟨hin, rfl⟩ := execHuffEncode_cases h
  · obtain rfl : e = .dstOverflow := hov
    exact absurd (State.inputError_mem herr) (by decide)
  · exact ⟨hin, State.emit_of_error (fun hok => nomatch hok.symm.trans hov)⟩

/-- With the tables of its input in place, whatever completion they were left by, BIT_PACK is HUFF_ENCODE. -/
theorem exec_bitPack_withInputTables {s : State} (hp : s.params.wf = true) (hin : s.inputError = none) (e : ErrCode)
    (info : Word) (r : Results) : exec .bitPack (s.withInputTables.finish e info r) = exec .huffEncode s := by
  have hlen := State.input_length_lt hp (State.inputError_eq_none.mp hin).1
  have hpack := exec_bitPack_accepted (s := s.withInputTables.finish e info r) rfl hin
    (fun b hb => codeOf_own_input_ne_nil hlen hb)
  rw [hpack, exec_huffEncode_accepted hin]
  exact congrArg Host.Outcome.next (State.emit_finish e info _ r _ _)

/-- Settles O46: the overflow leaves the tables of the input, from which BIT_PACK does what HUFF_ENCODE would do at the
new DST_OFF, where the reported length fits. -/
theorem huffOverflowKeepsTheTablesForBitPack : Obligations.HuffOverflowKeepsTheTablesForBitPack := by
  intro s t d hco h hov hfits
  obtain ⟨hin, rfl⟩ := exec_huffEncode_overflow h hov
  rw [State.finish_results, hco.huffmanResults_outLen hin] at hfits
  have hin' : State.inputError { s with dstOff := d } = none := hin
  obtain ⟨⟨hok, -⟩, -, -, hresults, -⟩ :=
    packOutput_packed (s := State.withInputTables { s with dstOff := d }) hfits
  have hencode := exec_huffEncode_accepted hin'
  have hbitPack := exec_bitPack_withInputTables (s := { s with dstOff := d }) hco.paramsLegal hin' .dstOverflow 0#32
    (huffmanResults (concatCodes s.input s.withInputTables.ct).length)
  exact ⟨rfl, rfl, rfl, rfl, rfl, rfl, rfl, _, hbitPack.trans hencode, hencode, hok, hresults⟩

end Sys2Proof.Machine
end

section
/-! PROOFS. The exceptions family, third part: no step stops (R300, R108), and the interrupt (R310, R311). -/

namespace Sys2Proof.Machine

/-! ### Every step answers -/

theorem engineTurn_answers (s : State) : ∃ t, engineTurn s = .next t := by
  cases hs : s.seq with
  | idle => exact ⟨s, engineTurn_idle hs⟩
  | busy =>
    obtain ⟨t, ht, -⟩ := engineTurn_completes hs
    exact ⟨t, ht⟩

/-- An admitted access answers, and so does a refused one, with a bus error (R108). -/
theorem hostTurn_answers (a : Access) (s : State) : ∃ t, hostTurn a s = .next t := by
  cases ha : portAccess a s with
  | next t => exact ⟨t, hostTurn_of_next ha⟩
  | fault f => exact ⟨_, hostTurn_of_fault ha⟩
  | refused r => exact absurd ha (portAccess_not_refused a s r)

/-- Settles O6, by what stands at the head of the schedule. -/
theorem noStepEverStops : Obligations.NoStepEverStops := by
  intro s
  match hi : s.inbox with
  | [] => exact step_of_nil hi ▸ engineTurn_answers s
  | .engine :: rest => exact step_of_engine hi ▸ engineTurn_answers _
  | .access a :: rest => exact step_of_access hi ▸ hostTurn_answers a _
  | .powerOn :: rest => exact ⟨_, step_of_powerOn hi⟩

/-! ### The interrupt (R310, R311) -/

theorem State.irq_eq_true {s : State} : s.irq = true ↔ s.done = true ∧ s.irqEn = true := by simp [State.irq]

theorem State.irq_of_done {s : State} (h : s.done = true) : s.irq = s.irqEn := by simp [State.irq, h]

/-- While DONE is clear the interrupt is low, whatever IRQ_EN is. -/
theorem State.irq_of_not_done {s : State} (h : s.done = false) : s.irq = false := by simp [State.irq, h]

theorem writeCtrl_softReset {v : Word} (hv : v.getLsbD 1 = true) (s : State) : writeCtrl v s = s.softReset := if_pos hv

theorem writeStatus_acknowledge {v : Word} (hv : v.getLsbD 1 = true) (s : State) : writeStatus v s = s.acknowledge :=
  if_pos hv

/-- Settles O17: every completion sets DONE, a write of CTRL without a reset reaches only IRQ_EN, and the acknowledge,
the acceptance and both resets clear DONE. -/
theorem interruptIsDoneAndEnabled : Obligations.InterruptIsDoneAndEnabled := by
  intro s
  refine ⟨State.irq_eq_true, fun i t h => ?_, fun v hv => ?_, fun v hv => ?_, fun v hidle => ?_, fun v hv => ?_,
    fun rest hi => ?_⟩
  · obtain ⟨hdone, hseq, hen⟩ := exec_records h
    exact ⟨hen ▸ State.irq_of_done hdone, hdone, hseq⟩
  · refine ⟨_, hostTurn_writeReg_always (r := .ctrl) rfl v s, ?_⟩
    rw [writeReg, writeCtrl_irqEn hv]
    exact ⟨rfl, rfl⟩
  · refine ⟨_, hostTurn_writeReg_always (r := .status) rfl v s, State.irq_of_not_done ?_⟩
    rw [writeReg, writeStatus_acknowledge hv]
    rfl
  · exact ⟨_, hostTurn_writeReg_idle .cmd v s hidle, State.irq_of_not_done rfl⟩
  · refine ⟨_, hostTurn_writeReg_always (r := .ctrl) rfl v s, State.irq_of_not_done ?_⟩
    rw [writeReg, writeCtrl_softReset hv]
    rfl
  · exact ⟨_, step_of_powerOn hi, State.irq_of_not_done rfl⟩

end Sys2Proof.Machine
end

section
/-! PROOFS. The reset family (spec/70_reset_and_hazards.md): what both resets return to the reset state (R72, R341, R342),
and DST after a soft reset that ends a command (R343). -/

namespace Sys2Proof.Machine

/-! ### The registers after either reset (R33, R72) -/

/-- `t` is the state after reset but for the sizes, the two memories and the model's own fields. -/
def Restarted (t : State) : Prop :=
  t = { State.reset with
    params := t.params, src := t.src, dst := t.dst, draws := t.draws, inbox := t.inbox, resp := t.resp }

theorem restarted_softReset (a : Response) (s : State) : Restarted (s.softReset.respond a) := rfl

theorem restarted_powerCycle (s : State) : Restarted s.powerCycle := rfl

/-- No register but the two size registers shows what the resets leave to the configuration or to the environment. -/
theorem Restarted.regValue_eq_zero {t : State} (h : Restarted t) {r : Reg} (hid : r ≠ .id) (hversion : r ≠ .version)
    (hsrcSize : r ≠ .srcSize) (hdstSize : r ≠ .dstSize) : regValue r t = 0#32 := by
  obtain ⟨-, -, -, -, -, -, hreset⟩ := powerOnRegisterValues Config.ref 0 (by decide)
  have hsame : regValue r t = regValue r State.reset := by
    rw [h]
    cases r with
    | srcSize | dstSize => contradiction
    | _ => rfl
  exact hsame.trans (hreset r hid hversion hsrcSize hdstSize)

/-! ### The reset input (R341) -/

/-- With no written byte and no abort every byte is the power-on draw. -/
theorem Memory.read_empty (n a : Nat) :
    Memory.read { cells := [], spans := [], base := n } a = Config.freeByte n a := rfl

/-- Settles O12: the step is a power cycle, which empties both memories. -/
theorem resetInputRestartsTheMachine : Obligations.ResetInputRestartsTheMachine := by
  intro s rest hi
  exact ⟨_, step_of_powerOn hi, rfl, rfl, rfl, rfl, rfl, rfl, rfl, rfl, rfl,
    fun _ => (restarted_powerCycle (s.setInbox rest)).regValue_eq_zero,
    Memory.read_empty s.draws, Memory.read_empty (s.draws + 1)⟩

/-! ### The soft reset (R342, R343) -/

theorem hostTurn_softReset {v : Word} (hv : v.getLsbD 1 = true) (s : State) :
    hostTurn (.write (regAddr .ctrl) .word v) s = .next (s.softReset.respond .done) := by
  rw [hostTurn_writeReg_always rfl, writeReg, writeCtrl_softReset hv]

theorem State.abortsOutput_eq_false {s : State} :
    s.abortsOutput = false ↔ s.seq = .idle ∨ ∀ i, decode s.cmd = .ok i → writesDst i = false := by
  rw [← Bool.not_eq_true, State.abortsOutput_eq_true]
  cases s.seq <;> simp

/-- Settles O13: the write performs a soft reset, and DST stays unless it aborts an output. -/
theorem softResetReturnsEveryRegister : Obligations.SoftResetReturnsEveryRegister := by
  intro s v hv
  exact ⟨_, hostTurn_softReset hv s, rfl, rfl, rfl, rfl, rfl, rfl, rfl, rfl, rfl,
    fun _ => (restarted_softReset .done s).regValue_eq_zero, rfl,
    fun h => State.dstAfterAbort_of_none (State.abortsOutput_eq_false.mpr h)⟩

/-- The commands that write DST, listed (R343). -/
theorem writesDst_of_mem {i : Instr} (h : i ∈ [Instr.huffEncode, .bitPack, .rleImage, .rleAudio, .rleVideo]) :
    writesDst i = true :=
  (by decide : ∀ i ∈ [Instr.huffEncode, .bitPack, .rleImage, .rleAudio, .rleVideo], writesDst i = true) i h

/-- The other commands, listed (R343). -/
theorem writesDst_eq_false_of_mem {i : Instr} (h : i ∈ [Instr.nop, .freqCount, .treeBuild, .codeGen]) :
    writesDst i = false :=
  (by decide : ∀ i ∈ [Instr.nop, .freqCount, .treeBuild, .codeGen], writesDst i = false) i h

/-- Settles O14: a command that writes DST leaves it scrambled from DST_OFF up, any other word in flight leaves it. -/
theorem abortDrawsTheOutputRange : Obligations.AbortDrawsTheOutputRange := by
  intro s v hbusy hv
  refine ⟨_, hostTurn_softReset hv s, rfl, rfl, rfl, rfl, rfl, rfl, rfl, fun i hi hmem => ?_, fun hother => ?_⟩
  · have hdst : (s.softReset.respond .done).dst = s.dst.scramble s.dstOff.toNat s.draws :=
      State.dstAfterAbort_of_abort (State.abortsOutput_eq_true.mpr ⟨hbusy, i, hi, writesDst_of_mem hmem⟩)
    rw [hdst]
    exact ⟨fun _ => Memory.read_scramble_above _ _, fun _ => Memory.read_scramble_below _ _⟩
  · exact State.dstAfterAbort_of_none
      (State.abortsOutput_eq_false.mpr (.inr fun i hi => writesDst_eq_false_of_mem (hother i hi)))

end Sys2Proof.Machine
end

section
/-! PROOFS. Where the invariant starts: the state after a power-on reset of any legal configuration (R8, R33), of which
`State.reset` is the one of REF. -/

namespace Sys2Proof.Machine

/-- REF's sizes lie in the range of R8. -/
theorem Config.ref_wf : Config.ref.wf = true := Params.wf_iff.mpr (by decide)

/-- Settles O9, from `coherent_powerOn`: `State.reset` is a power-on of REF, and REF is legal. -/
theorem invariantHoldsAtReset : Obligations.InvariantHoldsAtReset :=
  ⟨coherent_powerOn Config.ref_wf 0, fun _ n hp => coherent_powerOn hp n⟩

end Sys2Proof.Machine
end
